-- ==== Sys2Proof/Word.lean ====
section
/-! DEFINITION. The word types of the block: the byte, the 16-bit pixel or command value, the 32-bit
TransactionWord (00_scope R6, 30_encoding R80). All values are unsigned (R11, R13). -/

namespace Sys2Proof

/-- A byte: the unit of both memories, and the command operand of `ENC_CMD` (R101). -/
abbrev Byte := BitVec 8

/-- A 16-bit value: a pixel, or a command byte zero-extended (R86, R101). -/
abbrev Pixel := BitVec 16

/-- A 32-bit TransactionWord or register value (R80). -/
abbrev Word := BitVec 32

end Sys2Proof
end

