-- ==== Sys2Proof/Config.lean ====
section
/-! DEFINITION. The constants the spec fixes (00_scope R6) and the record of those it leaves open
(R7, 10_state R33). The record is data: a state carries it (notes/assumptions/1.md), so that a
statement over every state holds for every binding. -/

namespace Sys2Proof

/-! ### The constants of R6 -/

/-- Panel width `W` in pixels (R6). -/
def panelW : Nat := 320

/-- Panel height `H` in pixels (R6). -/
def panelH : Nat := 240

/-- `NPIX = W*H`, pixels per frame (R6). -/
def nPix : Nat := panelW * panelH

/-- `WORDS_PER_WRITE`, TransactionWords for one value (R6): the strobe-low and the strobe-high word. -/
def wordsPerWrite : Nat := 2

/-- `CAP = WORDS_PER_WRITE*(1+W*H)`, words in one TransferBuffer (R6). -/
def bufWords : Nat := wordsPerWrite * (1 + panelW * panelH)

/-- Bytes in one TransactionWord (20_memory R52, decision D24). -/
def wordBytes : Nat := 4

/-- Bytes in one full frame, `4*CAP` (R52). -/
def frameBytes : Nat := wordBytes * bufWords

/-- Bytes in a PixelBuffer of the fixed geometry, `2*NPIX` (10_state R25). -/
def pixelBytes : Nat := 2 * nPix

/-- `NPOOL`, TransferBuffers in the pool (R6). -/
def nPool : Nat := 8

/-- Bits in the pin-data register: one pin per bit (R30, R81). -/
def nPins : Nat := 32

/-- A colour field of the pixel format: the bit offset and the length in bits (R6). -/
structure ColourField where
  offset : Nat
  length : Nat
  deriving DecidableEq, Repr

/-- The red field of the pixel format (R6): offset 11, length 5. -/
def red : ColourField := ⟨11, 5⟩

/-- The green field of the pixel format (R6): offset 5, length 6. -/
def green : ColourField := ⟨5, 6⟩

/-- The blue field of the pixel format (R6): offset 0, length 5. -/
def blue : ColourField := ⟨0, 5⟩

/-- A pixel's colour field. The encoder reads no field by itself: it spreads the 16 bits (R88). -/
def colour (f : ColourField) (p : Pixel) : BitVec f.length := p.extractLsb' f.offset f.length

/-! ### The parameters of R7 -/

/-- A free value: the bits that the read half of the `n`-th register access finds where no rule and no write since
reset gives them a value (10_state R40). It has no body, so nothing is known of it (DESIGN CHOICE,
notes/assumptions/37.md). -/
opaque freeRegister (n : Nat) : Word

/-- The byte order parameter `ENDIAN` (20_memory R50). -/
inductive Endian where
  | little
  | big
  deriving DecidableEq, Repr

/-- The `TIMING` record (42_timing_and_bringup R153): naturals. -/
structure Timing where
  activeW : Nat
  activeH : Nat
  hBack : Nat
  hFront : Nat
  vBack : Nat
  vFront : Nat
  clkDiv : Nat
  deriving DecidableEq, Repr

/-- One item `(dc, byte)` of `PANEL_INIT` (R155). -/
structure PanelItem where
  dc : Bool
  byte : Byte
  deriving DecidableEq, Repr

/-- Where a field lies in its peripheral block: the offset of its register, its lowest bit, its width in
bits. The shape is the model's (DESIGN CHOICE, notes/assumptions/35.md): any field may lie in any register. -/
structure Loc where
  off : Nat
  lsb : Nat
  width : Nat
  deriving DecidableEq, Repr

/-- The pin-function, drive-strength and pull fields of one pin (R33, R152). -/
structure PinLocs where
  function : Loc
  drive : Loc
  pull : Loc
  deriving DecidableEq, Repr

/-- The registers of one DMA channel (R33): source, destination, length and control are whole registers;
the enable bit and the completion status are fields. -/
structure ChanLocs where
  srcOff : Nat
  dstOff : Nat
  lenOff : Nat
  ctrlOff : Nat
  enable : Loc
  status : Loc
  deriving DecidableEq, Repr

/-- The register map `REGMAP` (10_state R33): the base address of each of the four peripheral blocks, the
place of every register the rules name, pin by pin and channel by channel, and the pin-function,
drive-strength and pull constants of 42_timing_and_bringup R152. All `OPEN` (D17). The spec gives the map
no layout and no well-formedness: this shape, and that any map is admitted, fields that share a bit
included, is the model's choice (notes/assumptions/35.md). -/
structure RegMap where
  crcBase : Nat
  dmaBase : Nat
  gpioBase : Nat
  tconBase : Nat
  rstDma : Loc
  rstTcon : Loc
  clkDma : Loc
  clkTcon : Loc
  pinDataOff : Nat
  /-- pin `p` at place `p` -/
  pins : List PinLocs
  activeW : Loc
  activeH : Loc
  hBack : Loc
  hFront : Loc
  vBack : Loc
  vFront : Loc
  clkDiv : Loc
  /-- channel `c` at place `c` -/
  chans : List ChanLocs
  busFunction : Nat
  driveStrength : Nat
  pull : Nat
  deriving DecidableEq, Repr

/-- The parameters the spec leaves open (R7). -/
structure Config where
  /-- position of the least significant bit of field A, the low byte -/
  aLsb : Nat
  /-- position of the least significant bit of field B, the high byte -/
  bLsb : Nat
  /-- position of the strobe bit -/
  strobePos : Nat
  /-- position of the data-versus-command marker -/
  dcPos : Nat
  /-- `BASE`: the value of every other bit of a word (R87) -/
  base : Word
  /-- `CMD_WRITE_PIXELS` -/
  cmdWritePixels : Byte
  endian : Endian
  /-- `NCH`, the number of DMA channels -/
  nch : Nat
  /-- `TIMING`, what `TCON_CFG` programs (R153, R154) -/
  timing : Timing
  regmap : RegMap
  /-- `CTRL_WORD`, opaque (R100) -/
  ctrlWord : Word
  /-- `PANEL_INIT`, what `BRG_INIT` emits (R155) -/
  panelInit : List PanelItem
  /-- `HW_ATOMIC_REG_UPDATE` (60_exceptions R219) -/
  hwAtomicRegUpdate : Bool
  deriving DecidableEq, Repr

/-- DESIGN CHOICE (unsafe, notes/assumptions/2.md): the spec binds no register map. Four blocks of
consecutive registers, the pins packed eight to a register; no statement rests on these numbers. -/
def RegMap.reference : RegMap where
  crcBase := 0x1000
  dmaBase := 0x2000
  gpioBase := 0x3000
  tconBase := 0x4000
  rstDma := ⟨0x00, 0, 1⟩
  rstTcon := ⟨0x00, 1, 1⟩
  clkDma := ⟨0x04, 0, 1⟩
  clkTcon := ⟨0x04, 1, 1⟩
  pinDataOff := 0x00
  pins := (List.range nPins).map fun p =>
    ⟨⟨0x10 + 4 * (p / 8), 4 * (p % 8), 4⟩, ⟨0x20 + 4 * (p / 8), 4 * (p % 8), 4⟩, ⟨0x30 + 4 * (p / 8), 4 * (p % 8), 4⟩⟩
  activeW := ⟨0x00, 0, 16⟩
  activeH := ⟨0x00, 16, 16⟩
  hBack := ⟨0x04, 0, 16⟩
  hFront := ⟨0x04, 16, 16⟩
  vBack := ⟨0x08, 0, 16⟩
  vFront := ⟨0x08, 16, 16⟩
  clkDiv := ⟨0x0C, 0, 16⟩
  chans := [⟨0x00, 0x04, 0x08, 0x0C, ⟨0x10, 0, 1⟩, ⟨0x14, 0, 1⟩⟩]
  busFunction := 1
  driveStrength := 1
  pull := 1

/-- The reference binding of R7 (decisions D2, D3, D6, D7, D12, D16, D20). `REGMAP`, `CTRL_WORD`, `PANEL_INIT`
and the porch counts and divisor of `TIMING`, which have no binding there, are the model's choice
(notes/assumptions/2.md). -/
def Config.reference : Config where
  aLsb := 1
  bLsb := 10
  strobePos := 18
  dcPos := 19
  base := 0
  cmdWritePixels := 0x2C
  endian := .little
  nch := 1
  timing := ⟨panelW, panelH, 0, 0, 0, 0, 1⟩
  regmap := RegMap.reference
  ctrlWord := 0
  panelInit := []
  hwAtomicRegUpdate := true

end Sys2Proof
end

