-- ==== Sys2Proof/Syntax.lean ====
section
/-! DEFINITION. The instruction set: one constructor per row of spec/opcode_table.json (30_encoding R90,
R95, R96). Operands as R101 and each operation's own rule give them; an operand that is a parameter of 00_scope R7
(`TIMING`, `PANEL_INIT`) is that parameter by name, and its value the configuration's (notes/assumptions/25.md). -/

namespace Sys2Proof

/-- The operand of `TCON_CFG` (R101, 42_timing_and_bringup R153): the parameter `TIMING`. -/
inductive TimingOperand where
  | timing
  deriving DecidableEq, Repr

/-- The operand of `BRG_INIT` (42_timing_and_bringup R155): the parameter `PANEL_INIT`. -/
inductive PanelOperand where
  | panelInit
  deriving DecidableEq, Repr

/-- The 27 rows of the table. The first four are the TransactionWords themselves, which the DMA engine
plays; the rest are operations with an OPSEL tag. -/
inductive Instr where
  /-- a command value presented, strobe low (R90) -/
  | cmdLo (v : Pixel)
  /-- a command value held, strobe high (R90) -/
  | cmdHi (v : Pixel)
  /-- a data value presented, strobe low (R90) -/
  | datLo (v : Pixel)
  /-- a data value held, strobe high (R90) -/
  | datHi (v : Pixel)
  | encCmd (b : Byte)
  | encPix (p : Pixel)
  | decWord (w : Word)
  | emitPair (lo hi : Word)
  | encFrame (k : Nat)
  | brgClocks
  | brgPins
  | tconCfg (t : TimingOperand)
  | brgInit (items : PanelOperand)
  | brgArm (c k : Nat)
  | teardown
  | poolAlloc
  | poolBuf (i : Nat)
  | poolFree
  | dmaConfigure (c k : Nat)
  | dmaStart (c : Nat)
  | dmaStop (c : Nat)
  | dmaAck (c : Nat)
  | dmaRearm (c k : Nat)
  | dmaXfer (c : Nat)
  | publishNext (k : Nat)
  | queryInflight
  | irqFrame (c : Nat)
  deriving DecidableEq, Repr

end Sys2Proof
end

