-- ==== Sys2Proof/Machine/Operands.lean ====
section
/-! DEFINITION. Operand forms and bit fields: the spread of a 16-bit value into a TransactionWord, its
inverse, the word and pair forms of 30_encoding and 40_word_ops, and the byte view of `ENDIAN`. -/

namespace Sys2Proof

/-- `spread(v)` (R88): the low byte to field A, the high byte to field B. -/
def spread (c : Config) (v : Pixel) : Word :=
  ((v.extractLsb' 0 8).setWidth 32 <<< c.aLsb) ||| ((v.extractLsb' 8 8).setWidth 32 <<< c.bLsb)

/-- `unspread(w)` (R89): field B in the high byte, field A in the low one. -/
def unspread (c : Config) (w : Word) : Pixel :=
  (w.extractLsb' c.bLsb 8 ++ w.extractLsb' c.aLsb 8 : BitVec 16)

/-- The strobe bit `w[STROBE_POS]` (R85). -/
def strobeBit (c : Config) (w : Word) : Bool := w.getLsbD c.strobePos

/-- The marker bit `w[DC_POS]` (R84). -/
def markerBit (c : Config) (w : Word) : Bool := w.getLsbD c.dcPos

/-- A word with the strobe bit alone. -/
def strobeMask (c : Config) : Word := 1#32 <<< c.strobePos

/-- `FIELD_MASK` (R92). -/
def fieldMask (c : Config) : Word :=
  (0xFF#32 <<< c.aLsb) ||| (0xFF#32 <<< c.bLsb) ||| strobeMask c ||| (1#32 <<< c.dcPos)

/-- A word is canonical when its remainder bits are those of `BASE` (R92). -/
def canonical (c : Config) (w : Word) : Bool := decide (w &&& ~~~(fieldMask c) = c.base)

/-- `enc_word(dc, v)` (R110): the strobe-low word, then the strobe-high one. -/
def encWord (c : Config) (dc : Bool) (v : Pixel) : Word × Word :=
  let body := c.base ||| spread c v ||| ((BitVec.ofBool dc).setWidth 32 <<< c.dcPos)
  (body, body ||| strobeMask c)

/-- A command byte as a 16-bit value, `zext_16(b)` (R101, decision D5). -/
def cmdValue (b : Byte) : Pixel := b.setWidth 16

/-- Two words form a pair (R93). -/
def isPair (c : Config) (w0 w1 : Word) : Bool :=
  !strobeBit c w0 && strobeBit c w1 && decide (w1 = w0 ||| strobeMask c)

/-- The four kinds of word (R90). -/
inductive WordKind where
  | cmdLo
  | cmdHi
  | datLo
  | datHi
  deriving DecidableEq, Repr

/-- `kind(w)`, from the marker and the strobe alone (R90, R91). -/
def kindOf (c : Config) (w : Word) : WordKind :=
  match markerBit c w, strobeBit c w with
  | false, false => .cmdLo
  | false, true => .cmdHi
  | true, false => .datLo
  | true, true => .datHi

/-- `DEC_WORD(w) = (dc, S, v)` (R114). -/
def decodeFields (c : Config) (w : Word) : Bool × Bool × Pixel :=
  (markerBit c w, strobeBit c w, unspread c w)

/-- Word `j` of the encoding of the pixel sequence `P` (R94, R137): the command pair at words 0 and 1,
pixel `i` at words `2+2*i` and `3+2*i`. -/
def frameWord (c : Config) (P : Nat → Pixel) (j : Nat) : Word :=
  let pair := if j < 2 then encWord c false (cmdValue c.cmdWritePixels) else encWord c true (P ((j - 2) / 2))
  if j % 2 = 0 then pair.1 else pair.2

/-- A pin map is well formed (R8): the four sets of positions lie in 0..31, are pairwise disjoint, and
`BASE` is 0 on all of them. -/
def pinMapOk (c : Config) : Bool :=
  decide (c.aLsb + 8 ≤ 32) && decide (c.bLsb + 8 ≤ 32) && decide (c.strobePos < 32) && decide (c.dcPos < 32) &&
    decide (c.aLsb + 8 ≤ c.bLsb ∨ c.bLsb + 8 ≤ c.aLsb) &&
    decide (c.strobePos < c.aLsb ∨ c.aLsb + 8 ≤ c.strobePos) &&
    decide (c.strobePos < c.bLsb ∨ c.bLsb + 8 ≤ c.strobePos) &&
    decide (c.dcPos < c.aLsb ∨ c.aLsb + 8 ≤ c.dcPos) &&
    decide (c.dcPos < c.bLsb ∨ c.bLsb + 8 ≤ c.dcPos) &&
    decide (c.strobePos ≠ c.dcPos) && decide (c.base &&& fieldMask c = 0)

/-- The pins the pin map names (R152): fields A and B, strobe, marker, and the pins `BASE` holds high
(notes/assumptions/20.md). -/
def namedPins (c : Config) : List Nat :=
  (List.range nPins).filter fun p => (fieldMask c ||| c.base).getLsbD p

/-- The record an operand `TIMING` stands for: the configuration's (R7, R153). -/
def TimingOperand.record (c : Config) : TimingOperand → Timing
  | .timing => c.timing

/-- The list an operand `PANEL_INIT` stands for: the configuration's (R7, R155). -/
def PanelOperand.items (c : Config) : PanelOperand → List PanelItem
  | .panelInit => c.panelInit

/-- A `TIMING` record has the panel's active size (R153). -/
def Timing.activeOk (t : Timing) : Bool := decide (t.activeW = panelW) && decide (t.activeH = panelH)

/-- The 32-bit register word `w` with the value `v` in the bits of a field (20_memory R66). -/
def insertBits (l : Loc) (v : Nat) (w : Word) : Word :=
  let mask : Word := BitVec.ofNat 32 (2 ^ l.width - 1) <<< l.lsb
  (w &&& ~~~mask) ||| ((BitVec.ofNat 32 v <<< l.lsb) &&& mask)

/-- Byte `i` in address order of a 32-bit cell (R50). -/
def wordByte (e : Endian) (w : Word) (i : Nat) : Byte :=
  w.extractLsb' (8 * match e with | .little => i | .big => 3 - i) 8

/-- A 32-bit cell from its four bytes in address order (R50). -/
def wordOfBytes (e : Endian) (b0 b1 b2 b3 : Byte) : Word :=
  match e with
  | .little => (b3 ++ b2 ++ b1 ++ b0 : BitVec 32)
  | .big => (b0 ++ b1 ++ b2 ++ b3 : BitVec 32)

/-- Byte `i` in address order of a 16-bit cell (R50). -/
def pixelByte (e : Endian) (p : Pixel) (i : Nat) : Byte :=
  p.extractLsb' (8 * match e with | .little => i | .big => 1 - i) 8

/-- A 16-bit cell from its two bytes in address order (R50). -/
def pixelOfBytes (e : Endian) (b0 b1 : Byte) : Pixel :=
  match e with
  | .little => (b1 ++ b0 : BitVec 16)
  | .big => (b0 ++ b1 : BitVec 16)

end Sys2Proof
end

