-- ==== Sys2Proof/WellFormed.lean ====
section
/-! DEFINITION. The instructions whose operands the byte layout of notes/assumptions/4.md holds. Whether
an index names an existing channel or buffer is checked by the meanings, which answer by name. -/

namespace Sys2Proof

/-- A channel or buffer index fits its one operand byte. -/
def indexFits (n : Nat) : Bool := decide (n < 256)

/-- The check of an instruction. -/
def Instr.wf : Instr → Bool
  | .cmdLo _ => true
  | .cmdHi _ => true
  | .datLo _ => true
  | .datHi _ => true
  | .encCmd _ => true
  | .encPix _ => true
  | .decWord _ => true
  | .emitPair _ _ => true
  | .encFrame k => indexFits k
  | .brgClocks => true
  | .brgPins => true
  | .tconCfg _ => true
  | .brgInit _ => true
  | .brgArm c k => indexFits c && indexFits k
  | .teardown => true
  | .poolAlloc => true
  | .poolBuf i => indexFits i
  | .poolFree => true
  | .dmaConfigure c k => indexFits c && indexFits k
  | .dmaStart c => indexFits c
  | .dmaStop c => indexFits c
  | .dmaAck c => indexFits c
  | .dmaRearm c k => indexFits c && indexFits k
  | .dmaXfer c => indexFits c
  | .publishNext k => indexFits k
  | .queryInflight => true
  | .irqFrame c => indexFits c

end Sys2Proof
end

