-- ==== Sys2Proof/Decode.lean ====
section
/-! DEFINITION. The decoder and, after it, the encoder. A TransactionWord is a 32-bit value read by
30_encoding R91; an operation is its OPSEL tag (R96) followed by its operand bytes, whose layout is the
model's (DESIGN CHOICE, notes/assumptions/4.md: the spec gives operations no binary encoding). -/

namespace Sys2Proof

/-- Why a word or a list of bytes is no instruction. -/
inductive DecodeError where
  /-- no byte to decode -/
  | empty
  /-- an OPSEL value R96 does not list: illegal and refused -/
  | illegalOpsel (tag : Byte)
  /-- fewer operand bytes than the operation of this tag has -/
  | truncated (tag : Byte)
  /-- a 32-bit value that is not canonical (R92) -/
  | nonCanonical (w : Word)
  deriving DecidableEq, Repr

/-! ### TransactionWords -/

/-- The TransactionWord `w` as an instruction: its kind (R90) and its value (R89). -/
def decodeWord (c : Config) (w : Word) : Except DecodeError Instr :=
  if canonical c w then
    match kindOf c w with
    | .cmdLo => .ok (.cmdLo (unspread c w))
    | .cmdHi => .ok (.cmdHi (unspread c w))
    | .datLo => .ok (.datLo (unspread c w))
    | .datHi => .ok (.datHi (unspread c w))
  else .error (.nonCanonical w)

/-! ### Operand bytes -/

/-- Two operand bytes, the first the less significant. -/
def take2 : List Byte → Option (BitVec 16 × List Byte)
  | b0 :: b1 :: rest => some ((b1 ++ b0 : BitVec 16), rest)
  | _ => none

/-- Four operand bytes, the first the least significant. -/
def take4 : List Byte → Option (BitVec 32 × List Byte)
  | b0 :: b1 :: b2 :: b3 :: rest => some ((b3 ++ b2 ++ b1 ++ b0 : BitVec 32), rest)
  | _ => none

/-- An operation with one index operand. -/
def takeIndex (tag : Byte) (f : Nat → Instr) : List Byte → Except DecodeError (Instr × List Byte)
  | k :: bs => .ok (f k.toNat, bs)
  | [] => .error (.truncated tag)

/-- An operation with a channel and a buffer operand. -/
def takeIndex2 (tag : Byte) (f : Nat → Nat → Instr) : List Byte → Except DecodeError (Instr × List Byte)
  | c :: k :: bs => .ok (f c.toNat k.toNat, bs)
  | _ => .error (.truncated tag)

/-! ### Operations -/

/-- The operand bytes of the operation with OPSEL `tag` (R96). -/
def decodeOperands (tag : Byte) (bs : List Byte) : Except DecodeError (Instr × List Byte) :=
  match tag.toNat with
  | 0x01 => match bs with
    | b :: rest => .ok (.encCmd b, rest)
    | [] => .error (.truncated tag)
  | 0x02 => match take2 bs with
    | some (p, rest) => .ok (.encPix p, rest)
    | none => .error (.truncated tag)
  | 0x03 => match take4 bs with
    | some (w, rest) => .ok (.decWord w, rest)
    | none => .error (.truncated tag)
  | 0x04 => match take4 bs with
    | some (lo, bs') => match take4 bs' with
      | some (hi, rest) => .ok (.emitPair lo hi, rest)
      | none => .error (.truncated tag)
    | none => .error (.truncated tag)
  | 0x05 => takeIndex tag .encFrame bs
  | 0x10 => .ok (.brgClocks, bs)
  | 0x11 => .ok (.brgPins, bs)
  | 0x12 => .ok (.tconCfg .timing, bs)
  | 0x13 => .ok (.brgInit .panelInit, bs)
  | 0x14 => takeIndex2 tag .brgArm bs
  | 0x1F => .ok (.teardown, bs)
  | 0x20 => .ok (.poolAlloc, bs)
  | 0x21 => takeIndex tag .poolBuf bs
  | 0x22 => .ok (.poolFree, bs)
  | 0x30 => takeIndex2 tag .dmaConfigure bs
  | 0x31 => takeIndex tag .dmaStart bs
  | 0x32 => takeIndex tag .dmaStop bs
  | 0x33 => takeIndex tag .dmaAck bs
  | 0x34 => takeIndex2 tag .dmaRearm bs
  | 0x35 => takeIndex tag .dmaXfer bs
  | 0x40 => takeIndex tag .publishNext bs
  | 0x41 => .ok (.queryInflight, bs)
  | 0x50 => takeIndex tag .irqFrame bs
  | _ => .error (.illegalOpsel tag)

/-- The first operation of a list of bytes, and the bytes after it. -/
def decodeCall : List Byte → Except DecodeError (Instr × List Byte)
  | [] => .error .empty
  | tag :: bs => decodeOperands tag bs

/-! ### The encoder -/

/-- The OPSEL tag of an operation (R96); none for a TransactionWord, which has no tag. -/
def opsel : Instr → Option Byte
  | .cmdLo _ => none
  | .cmdHi _ => none
  | .datLo _ => none
  | .datHi _ => none
  | .encCmd _ => some 0x01
  | .encPix _ => some 0x02
  | .decWord _ => some 0x03
  | .emitPair _ _ => some 0x04
  | .encFrame _ => some 0x05
  | .brgClocks => some 0x10
  | .brgPins => some 0x11
  | .tconCfg _ => some 0x12
  | .brgInit _ => some 0x13
  | .brgArm _ _ => some 0x14
  | .teardown => some 0x1F
  | .poolAlloc => some 0x20
  | .poolBuf _ => some 0x21
  | .poolFree => some 0x22
  | .dmaConfigure _ _ => some 0x30
  | .dmaStart _ => some 0x31
  | .dmaStop _ => some 0x32
  | .dmaAck _ => some 0x33
  | .dmaRearm _ _ => some 0x34
  | .dmaXfer _ => some 0x35
  | .publishNext _ => some 0x40
  | .queryInflight => some 0x41
  | .irqFrame _ => some 0x50

/-- The bytes of a 16-bit operand. -/
def give2 (v : BitVec 16) : List Byte := [v.extractLsb' 0 8, v.extractLsb' 8 8]

/-- The bytes of a 32-bit operand. -/
def give4 (v : BitVec 32) : List Byte :=
  [v.extractLsb' 0 8, v.extractLsb' 8 8, v.extractLsb' 16 8, v.extractLsb' 24 8]

/-- The byte of an index operand. -/
def giveIndex (n : Nat) : Byte := BitVec.ofNat 8 n

/-- The operand bytes of an operation; none for a TransactionWord. -/
def encodeOperands : Instr → List Byte
  | .cmdLo _ => []
  | .cmdHi _ => []
  | .datLo _ => []
  | .datHi _ => []
  | .encCmd b => [b]
  | .encPix p => give2 p
  | .decWord w => give4 w
  | .emitPair lo hi => give4 lo ++ give4 hi
  | .encFrame k => [giveIndex k]
  | .brgClocks => []
  | .brgPins => []
  | .tconCfg _ => []
  | .brgInit _ => []
  | .brgArm c k => [giveIndex c, giveIndex k]
  | .teardown => []
  | .poolAlloc => []
  | .poolBuf i => [giveIndex i]
  | .poolFree => []
  | .dmaConfigure c k => [giveIndex c, giveIndex k]
  | .dmaStart c => [giveIndex c]
  | .dmaStop c => [giveIndex c]
  | .dmaAck c => [giveIndex c]
  | .dmaRearm c k => [giveIndex c, giveIndex k]
  | .dmaXfer c => [giveIndex c]
  | .publishNext k => [giveIndex k]
  | .queryInflight => []
  | .irqFrame c => [giveIndex c]

/-- The TransactionWord of a word instruction (R110); none for an operation. -/
def encodeWord (c : Config) : Instr → Option Word
  | .cmdLo v => some (encWord c false v).1
  | .cmdHi v => some (encWord c false v).2
  | .datLo v => some (encWord c true v).1
  | .datHi v => some (encWord c true v).2
  | .encCmd _ => none
  | .encPix _ => none
  | .decWord _ => none
  | .emitPair _ _ => none
  | .encFrame _ => none
  | .brgClocks => none
  | .brgPins => none
  | .tconCfg _ => none
  | .brgInit _ => none
  | .brgArm _ _ => none
  | .teardown => none
  | .poolAlloc => none
  | .poolBuf _ => none
  | .poolFree => none
  | .dmaConfigure _ _ => none
  | .dmaStart _ => none
  | .dmaStop _ => none
  | .dmaAck _ => none
  | .dmaRearm _ _ => none
  | .dmaXfer _ => none
  | .publishNext _ => none
  | .queryInflight => none
  | .irqFrame _ => none

/-- How an instruction is stored: a TransactionWord, or the bytes of an operation. -/
inductive Code where
  | word (w : Word)
  | bytes (bs : List Byte)
  deriving DecidableEq, Repr

/-- The words of an instruction under the pin map `c`. -/
def encode (c : Config) (i : Instr) : Code :=
  match encodeWord c i, opsel i with
  | some w, _ => .word w
  | none, some tag => .bytes (tag :: encodeOperands i)
  | none, none => .bytes []

/-- The instruction a code stands for, and what follows it. -/
def decode (c : Config) : Code → Except DecodeError (Instr × List Byte)
  | .word w => (decodeWord c w).map fun i => (i, [])
  | .bytes bs => decodeCall bs

/-! ### The opcode table's numbering -/

/-- Operand bytes of zeros after the table's bits: no operation has more than the eight of `EMIT_PAIR`. -/
def zeroOperands : List Byte := List.replicate 8 0#8

/-- The code of a row of `nbits` bits `w`: 32 bits are a TransactionWord; otherwise the bytes of `w`, the
first the least significant, and operand bytes of zeros. -/
def tableCode (nbits w : Nat) : Code :=
  if nbits = 32 then .word (BitVec.ofNat 32 w)
  else .bytes ((List.range (nbits / 8)).map (fun i => BitVec.ofNat 8 (w >>> (8 * i))) ++ zeroOperands)

/-- The instruction the decoder reads from a row of the table, under the reference pin map, as the
table is written. -/
def decodeTableWord (nbits w : Nat) : Option Instr :=
  match decode Config.reference (tableCode nbits w) with
  | .ok (i, _) => some i
  | .error _ => none

end Sys2Proof
end

