-- ==== Sys2Proof/Machine/State.lean ====
section
/-! DEFINITION. The state of the machine (10_state), the reasons a step stops, and the state after
reset (R40). Grouped by the four peripheral blocks of 60_exceptions R229 and the agents of 00_scope R9.
Everything is plain data. -/

namespace Sys2Proof.Machine

/-! ### Memory -/

/-- Byte memory in canonical form: addresses strictly rising, only bytes that hold a value. An address
that is not listed holds no value (R26, R40, R272; notes/assumptions/10.md). -/
abbrev Memory := List Host.Cell

/-- The canonical form: addresses strictly rising. -/
def Memory.wf : Memory → Bool
  | [] => true
  | [_] => true
  | (a, _) :: (b, v) :: m => decide (a < b) && Memory.wf ((b, v) :: m)

/-! ### The peripheral blocks -/

/-- The pin path's mode: `Signal` is the pins' default or alternate function, `Data` the drive mode required
for bus signaling (R31). -/
inductive PinMode where
  | signal
  | data
  deriving DecidableEq, Repr

/-- The function, drive-strength and pull fields of one pin (42_timing_and_bringup R152), as codes of the
register map. -/
structure Pin where
  function : Nat
  drive : Nat
  pull : Nat
  deriving DecidableEq, Repr

/-- The general-purpose-I/O controller (R229): `PINDATA` (R30), the pin mode (R31) and the pins. -/
structure Gpio where
  pinData : Word
  pinMode : PinMode
  pins : List Pin
  deriving DecidableEq, Repr

/-- The clock/reset controller (R32); a reset line that is true is held in reset. -/
structure ClockReset where
  clkDma : Bool
  clkTcon : Bool
  rstDma : Bool
  rstTcon : Bool
  deriving DecidableEq, Repr

/-- For each field of the timing configuration, that it holds a value (R34, R40; notes/assumptions/9.md). -/
structure TimingMarks where
  activeW : Bool
  activeH : Bool
  hBack : Bool
  hFront : Bool
  vBack : Bool
  vFront : Bool
  clkDiv : Bool
  deriving DecidableEq, Repr

/-- No field holds a value (R40). -/
def TimingMarks.none : TimingMarks := ⟨false, false, false, false, false, false, false⟩

/-- Every field holds a value. -/
def TimingMarks.all : TimingMarks := ⟨true, true, true, true, true, true, true⟩

/-- The timing/display controller (R34). -/
structure TimingCtl where
  fields : Timing
  known : TimingMarks
  valid : Bool
  deriving DecidableEq, Repr

/-- ChannelState of one DMA channel (R28). Source, destination, length and control are 32-bit registers
(20_memory R52, notes/assumptions/11.md). -/
structure Channel where
  src : Word
  dst : Word
  len : Word
  ctrl : Word
  enable : Bool
  /-- the completion status (R22) -/
  irqPending : Bool
  /-- words of the armed buffer already written to `PINDATA` (R21) -/
  dmaPos : Nat
  /-- src, dst, len and ctrl hold a value: "a channel field never configured" has none (R272) -/
  configured : Bool
  /-- a completion found `irqPending` already set and was not signalled (R193, R213) -/
  lost : Bool
  deriving DecidableEq, Repr

/-- The peripheral register fields the rules name (R28, R30, R31, R32, R34). -/
inductive RegField where
  | rstDma
  | rstTcon
  | clkDma
  | clkTcon
  | pinFunction (pin : Nat)
  | pinDrive (pin : Nat)
  | pinPull (pin : Nat)
  | pinData
  | activeW
  | activeH
  | hBack
  | hFront
  | vBack
  | vFront
  | clkDiv
  | src (c : Nat)
  | dst (c : Nat)
  | len (c : Nat)
  | ctrl (c : Nat)
  | enable (c : Nat)
  | status (c : Nat)
  deriving DecidableEq, Repr

/-! ### Pool, producer, interrupt, panel -/

/-- A TransferBuffer: its two addresses, its capacity in words, and the mark `encoded` (R26, R27). -/
structure Buffer where
  logicalBase : Nat
  physBase : Nat
  capacity : Nat
  encoded : Bool
  deriving DecidableEq, Repr

/-- The TransferBufferPool (R27), its `armed` index (R24) and its `pending_next` slot (R23). -/
structure Pool where
  allocated : Bool
  bufs : List Buffer
  armed : Option Nat
  pendingNext : Option Nat
  deriving DecidableEq, Repr

/-- The operations of the producer whose first register access another agent can fall into (20_memory R53 (d);
notes/assumptions/38.md). -/
inductive TornOp where
  /-- `DMA_STOP c` (43_pool_and_dma R189) -/
  | dmaStop (c : Nat)
  /-- `DMA_ACK c` in process context (43_pool_and_dma R190) -/
  | dmaAck (c : Nat)
  /-- `TEARDOWN`, which stops channel 0 first (42_timing_and_bringup R158) -/
  | teardown
  deriving DecidableEq, Repr

/-- The channel whose register it accesses first. -/
def TornOp.channel : TornOp → Nat
  | .dmaStop c => c
  | .dmaAck c => c
  | .teardown => 0

/-- The field it sets to 0 there. -/
def TornOp.field : TornOp → RegField
  | .dmaStop c => .enable c
  | .dmaAck c => .status c
  | .teardown => .enable 0

/-- A read-modify-write of which only the read is done (20_memory R53 (d)): the operation in the midst of which it is,
and the word read, as the write-back puts it (R66). -/
structure HalfWrite where
  op : TornOp
  read : Word
  deriving DecidableEq, Repr

/-- The producer: its `ENC_FRAME` in progress, none or its buffer, and `enc_idx` (R21, R135); the
collaborator's notifications that wait, oldest first, and the buffer to publish after the encode that the
last one asked for (60_exceptions R232; notes/assumptions/33.md); and the read-modify-write it is in the midst of. -/
structure Producer where
  encoding : Option Nat
  encIdx : Nat
  /-- for each waiting notification, the producer's free choice of buffer (R199) -/
  notes : List Nat
  thenPublish : Option Nat
  halfWrite : Option HalfWrite
  deriving DecidableEq, Repr

/-- The PixelBuffer as the collaborator handed it over (R230): base address, size in bytes, cells. -/
structure PixelBuffer where
  base : Nat
  bytes : Nat
  mem : Memory
  deriving DecidableEq, Repr

/-- The execution contexts (R225). -/
inductive Context where
  | process
  | interrupt
  deriving DecidableEq, Repr

/-- The interrupt line's registration (R35) and mask (R219), and the current context (R225). -/
structure Irq where
  attached : Bool
  masked : Bool
  ctx : Context
  deriving DecidableEq, Repr

/-- The bring-up states (R29). -/
inductive Bringup where
  | unconfigured
  | clocksEnabled
  | pinsConfigured
  | timingConfigured
  | streamingCommand
  | armed
  deriving DecidableEq, Repr

/-- A size that a geometry check compares (R134, R154). -/
inductive Size where
  | bytes (n : Nat)
  | words (n : Nat)
  | active (w h : Nat)
  deriving DecidableEq, Repr

/-- The four errors with the information they record (R210): the index of the failed allocation, the size
given and the size expected, the channel, the channel. -/
inductive PipeError where
  | allocationFailure (k : Nat)
  | geometryMismatch (given expected : Size)
  | interruptLost (c : Nat)
  | resourceBusy (c : Nat)
  deriving DecidableEq, Repr

/-- One value the panel latched: `(dc, value)` (R37, R118). -/
structure Latch where
  dc : Bool
  value : Pixel
  deriving DecidableEq, Repr

/-- The panel's view of the pins (R37); `strobeSeen` holds a value when `strobeKnown` (R40, R272). -/
structure Panel where
  strobeSeen : Bool
  strobeKnown : Bool
  latched : List Latch
  deriving DecidableEq, Repr

/-! ### The model's own fields -/

/-- What an operation returns to its caller (notes/assumptions/5.md). -/
inductive Ret where
  | void
  /-- `ENC_CMD`, `ENC_PIX`: the pair -/
  | pair (lo hi : Word)
  /-- `DEC_WORD`: `(dc, S, v)` -/
  | fields (dc strobe : Bool) (v : Pixel)
  /-- `POOL_BUF`: logical base, physical base, capacity in words -/
  | buffer (logicalBase physBase capacity : Nat)
  /-- `QUERY_INFLIGHT` -/
  | flag (b : Bool)
  /-- the error an operation raised -/
  | error (e : PipeError)
  deriving DecidableEq, Repr

/-- A register field's absolute place: the address of its register, its lowest bit, its width. -/
structure RegPlace where
  addr : Nat
  bits : Loc
  deriving DecidableEq, Repr

/-- One entry of the access trace (R191, R265; notes/assumptions/6.md): a read or a write of a 32-bit
register at its address of `REGMAP` (20_memory R52, R66), and the accesses of the pool's two slots and of the
interrupt mask. -/
inductive Access where
  | read (addr : Nat) (w : Word)
  /-- the write that changes `field` -/
  | write (addr : Nat) (field : RegField) (w : Word)
  | slotPut (k : Nat)
  /-- `pending_next` is emptied: the handler's read-and-clear (R222), and the plain clear of `TEARDOWN` (R158) -/
  | slotTake (old : Option Nat)
  | armedSet (a : Option Nat)
  | mask
  | unmask
  deriving DecidableEq, Repr

/-- The allocator's answer to one request: the logical and the physical base of a region, or a failure
(R180). -/
abbrev AllocDraw := Option (Nat × Nat)

/-- The bits of peripheral registers that no rule names, by address (20_memory R66): addresses strictly
rising, no entry zero; an unlisted register has zeros there (notes/assumptions/36.md). -/
abbrev OtherBits := List (Nat × Word)

/-- The canonical form of the bits no rule names. -/
def OtherBits.wf : OtherBits → Bool
  | [] => true
  | [(_, w)] => decide (w ≠ 0)
  | (a, w) :: (b, v) :: m => decide (w ≠ 0) && decide (a < b) && OtherBits.wf ((b, v) :: m)

/-- What happens next: a code to run, a step of the producer by itself, or an event from outside
(notes/assumptions/3.md). -/
inductive Event where
  /-- a TransactionWord on the pin bus -/
  | word (w : Word)
  /-- the bytes of operations issued one after the other -/
  | calls (bs : List Byte)
  /-- the producer takes a step by itself: of its `ENC_FRAME` (R135), or to serve a notification (R232) -/
  | producerStep
  /-- the producer begins the operation with the read half of its first register access (R53 (d)); the write-back and
  what follows it are a step of their own -/
  | readHalf (op : TornOp)
  /-- the handler is attached to the interrupt line (R35, R251) -/
  | attach
  /-- the collaborator writes a pixel (R233) -/
  | pixelWrite (i : Nat) (p : Pixel)
  /-- the collaborator hands the PixelBuffer over (R230) -/
  | handOver (base bytes : Nat)
  /-- the collaborator notifies, at any time (R230, R232, R233); `k` is the producer's free choice of buffer
  (R199) -/
  | notify (offset k : Nat)
  /-- the allocator's answers to the next `POOL_ALLOC` (R180) -/
  | allocator (draws : List AllocDraw)
  deriving DecidableEq, Repr

end Sys2Proof.Machine

namespace Sys2Proof.Machine

/-- The state of the machine. -/
structure State where
  /-- the configuration: a parameter of every step (R39), written by none -/
  cfg : Config
  producer : Producer
  pool : Pool
  pix : PixelBuffer
  /-- transfer space: the cells of every TransferBuffer by physical byte address (R54, R56) -/
  txMem : Memory
  crc : ClockReset
  gpio : Gpio
  tcon : TimingCtl
  /-- the DMA channels, channel `c` at place `c` (R28) -/
  chans : List Channel
  /-- the bits of peripheral registers that no rule names (20_memory R66) -/
  regOther : OtherBits
  irq : Irq
  bringup : Bringup
  /-- the error record (R36) -/
  err : Option PipeError
  panel : Panel
  /-- the model's own: what the last call returned -/
  ret : Ret
  /-- the model's own: the accesses made so far, in order -/
  trace : List Access
  /-- the model's own: the allocator's answers, a free input of `POOL_ALLOC` -/
  allocDraws : List AllocDraw
  /-- the model's own: what happens next, in order -/
  inbox : List Event
  deriving DecidableEq, Repr

/-! ### Why a step stops -/

/-- The faults: the run has left the behaviours the spec defines (R12). Each is raised where the spec
names it, so each is safe: no claim follows from a run that ends in one. -/
inductive Fault where
  /-- every write of `PINDATA`: a remainder bit differs from `BASE` (R92, R273). Safe. -/
  | nonCanonicalWord
  /-- a strobe-high write while the strobe level holds no value: the latch would depend on it (R272). Safe. -/
  | strobeUnspecified
  /-- `EMIT_PAIR`: the operands are no pair (R121). Safe. -/
  | notAPair
  /-- `EMIT_PAIR`, `BRG_INIT`, `DMA_XFER`: the pins are not in `Data` mode (R121, R252, R263). Safe. -/
  | pinsNotData
  /-- `ENC_FRAME`, `POOL_BUF`, `DMA_CONFIGURE`, `BRG_ARM`, `PUBLISH_NEXT`: no pool, a false `require` (R12). Safe. -/
  | poolNotAllocated
  /-- `POOL_ALLOC` while the pool is allocated, a false `require` (R180). Safe. -/
  | poolAllocated
  /-- a write of a buffer that is armed, published or streaming (R136, R261). Safe. -/
  | bufferInUse
  /-- `ENC_FRAME` or `DMA_CONFIGURE` while an `ENC_FRAME` is in progress that excludes it (R130, R58). Safe. -/
  | encodeInProgress
  /-- `DMA_CONFIGURE`, `BRG_ARM`, `PUBLISH_NEXT`: the buffer is not fully encoded (R58, R262). Safe. -/
  | bufferNotEncoded
  /-- `ENC_FRAME`: it reads a pixel that holds no value (R272). Safe. -/
  | pixelUnwritten
  /-- `DMA_XFER`: it reads a word that holds no value (R192, R272). Safe. -/
  | wordUnwritten
  /-- `DMA_CONFIGURE` of an enabled channel: ResourceBusy of that channel (R210, R214, R264). Safe. -/
  | resourceBusy (c : Nat)
  /-- `DMA_START` of a stopped channel before the pin path is valid (R188, R263). Safe. -/
  | pathNotValid
  /-- `DMA_START` of a channel never configured (R188, U17). Safe. -/
  | channelUnconfigured
  /-- `DMA_START` in process context between a completion and the re-arm (R270 case (c)). Safe. -/
  | startBeforeRearm
  /-- `DMA_CONFIGURE` or `DMA_REARM` issued in process context: there only `BRG_ARM` writes a channel's source
  (R226, R267). Safe. -/
  | swapOutsideHandler
  /-- `BRG_ARM` with no handler attached, a false `require` (R156). Safe. -/
  | handlerNotAttached
  /-- `PUBLISH_NEXT` of the armed buffer, a false `require` (R197). Safe. -/
  | publishArmed
  /-- `POOL_FREE` while a channel is enabled, a buffer armed or the handler attached (R185, R266). Safe. -/
  | freeWhileInUse
  /-- `IRQ_FRAME` with no buffer armed (R250, U41). Safe. -/
  | noArmedBuffer
  /-- the refresh loop of this channel is stuck: InterruptLost (R210, R213). Safe. -/
  | interruptLost (c : Nat)
  /-- `DMA_XFER` when the engine has no step, a false `require` (R192). Safe. -/
  | engineIdle
  /-- `TCON_CFG`: the timing generator is not clocked or is in reset, a false `require` (R154). Safe. -/
  | timingBlockOff
  /-- `BRG_INIT`, `DMA_XFER`: the timing generator is not configured (R162). Safe. -/
  | timingNotValid
  deriving DecidableEq, Repr

/-- The refusals: the model does not admit the operation, the event or the configuration, and nothing
changes (R12). Each is safe. -/
inductive Refusal where
  /-- an instruction that has no meaning yet, in exec's arm only -/
  | notModelled (mnemonic : String)
  /-- the bytes are no instruction (R96, U38; notes/assumptions/4.md). Safe. -/
  | undecodable (e : DecodeError)
  /-- the pin map is ill-formed (R8). Safe. -/
  | pinMapIllFormed
  /-- `NCH` is not 1: the spec does not define more channels (D12, U24). Safe. -/
  | channelCountUnsupported
  /-- a base address is not naturally aligned (R51). Safe. -/
  | misalignedBase
  /-- the allocator's regions overlap (R180). Safe. -/
  | overlappingRegions
  /-- a region reaches past the 32 bits of a source register (R52, R187; notes/assumptions/11.md). Safe. -/
  | regionOutOfReach
  /-- a bring-up operation in another state than its own (R159, R269). Safe. -/
  | wrongBringupState
  /-- a bring-up operation after an error: the machine does not advance (R161). Safe. -/
  | bringupAborted
  /-- the configuration's `TIMING` has a divisor of zero (R153, R154). Safe. -/
  | clkDivZero
  /-- a channel operand outside `0..NCH-1`. Safe. -/
  | noSuchChannel
  /-- a buffer operand outside `0..NPOOL-1` (R182, U12). Safe. -/
  | noSuchBuffer
  /-- an operation R226 never allows in interrupt context. Safe. -/
  | processContextOnly
  /-- `IRQ_FRAME` with no completion pending: the handler is not entered (R221). Safe. -/
  | noCompletionPending
  /-- `IRQ_FRAME` with no handler attached: the handler is not entered (R219). Safe. -/
  | handlerDetached
  /-- `IRQ_FRAME` with the line masked: the handler is not entered (R221). Safe. -/
  | interruptMasked
  /-- `IRQ_FRAME` inside the handler: it does not nest (R224). Safe. -/
  | handlerNested
  /-- a `producerStep` event with nothing for the producer to do by itself. Safe. -/
  | producerIdle
  /-- a pixel event outside the PixelBuffer. Safe. -/
  | noSuchPixel
  deriving DecidableEq, Repr

/-- The outcome of a step of this machine. -/
abbrev Out := Host.Outcome State Fault Refusal

/-! ### Reset -/

/-- A pin's fields after reset (DESIGN CHOICE, notes/assumptions/20.md; the path's mode is R31's). -/
def Pin.reset : Pin := ⟨0, 0, 0⟩

/-- A channel after reset (R40): disabled, nothing pending; src, dst, len, ctrl and dmaPos are
unspecified there (DESIGN CHOICE 0, `configured` false; notes/assumptions/9.md). -/
def Channel.reset : Channel := ⟨0, 0, 0, 0, false, false, 0, false, false⟩

/-- The allocator's answers at reset: eight successes (DESIGN CHOICE, a free input,
notes/assumptions/12.md). -/
def allocDrawsReset : List AllocDraw :=
  (List.range nPool).map fun k => some (0x80000000 + 0x100000 * k, 0x10000000 + 0x100000 * k)

/-- The state after reset under the configuration `c` (R40, R250). -/
def State.resetWith (c : Config) : State where
  cfg := c
  producer := ⟨none, 0, [], none, none⟩
  pool := ⟨false, [], none, none⟩
  pix := ⟨0, pixelBytes, []⟩
  txMem := []
  crc := ⟨false, false, true, true⟩
  gpio := ⟨0, .signal, List.replicate nPins Pin.reset⟩
  tcon := ⟨⟨0, 0, 0, 0, 0, 0, 0⟩, .none, false⟩
  chans := List.replicate c.nch Channel.reset
  regOther := []
  irq := ⟨false, false, .process⟩
  bringup := .unconfigured
  err := none
  panel := ⟨false, false, []⟩
  ret := .void
  trace := []
  allocDraws := allocDrawsReset
  inbox := []

/-- The state after reset, under the reference binding (R7, R40). -/
def State.reset : State := State.resetWith Config.reference

end Sys2Proof.Machine
end

