-- ==== Sys2Proof/Machine/Ops.lean ====
section
/-! DEFINITION. The shared operations over memory, registers, pins and DMA channels, and the entry into
and the return from the interrupt handler. The meanings of the instructions are written over these. -/

namespace Sys2Proof.Machine

/-! ### Memory -/

/-- The byte at an address, if one is listed (R26, R40: nothing else holds a value). -/
def memRead : Memory → Nat → Option Byte
  | [], _ => none
  | (a, b) :: m, x => if x = a then some b else memRead m x

/-- A byte write; it keeps the canonical form. -/
def memWrite : Memory → Nat → Byte → Memory
  | [], x, v => [(x, v)]
  | (a, b) :: m, x, v =>
    if x < a then (x, v) :: (a, b) :: m
    else if x = a then (x, v) :: m
    else (a, b) :: memWrite m x v

/-- `MemRead(addr, 4)` (R12, R50): a word, if all four of its bytes hold a value. -/
def read32 (e : Endian) (m : Memory) (a : Nat) : Option Word :=
  match memRead m a, memRead m (a + 1), memRead m (a + 2), memRead m (a + 3) with
  | some b0, some b1, some b2, some b3 => some (wordOfBytes e b0 b1 b2 b3)
  | _, _, _, _ => none

/-- `MemWrite(addr, 4, w)` (R12, R50). -/
def write32 (e : Endian) (m : Memory) (a : Nat) (w : Word) : Memory :=
  memWrite (memWrite (memWrite (memWrite m a (wordByte e w 0)) (a + 1) (wordByte e w 1))
    (a + 2) (wordByte e w 2)) (a + 3) (wordByte e w 3)

/-- `MemRead(addr, 2)` (R12, R50): a pixel, if both of its bytes hold a value. -/
def read16 (e : Endian) (m : Memory) (a : Nat) : Option Pixel :=
  match memRead m a, memRead m (a + 1) with
  | some b0, some b1 => some (pixelOfBytes e b0 b1)
  | _, _ => none

/-- `MemWrite(addr, 2, p)` (R12, R50). -/
def write16 (e : Endian) (m : Memory) (a : Nat) (p : Pixel) : Memory :=
  memWrite (memWrite m a (pixelByte e p 0)) (a + 1) (pixelByte e p 1)

/-- `PIX[i]` (R12). -/
def readPixel (s : State) (i : Nat) : Option Pixel :=
  read16 s.cfg.endian s.pix.mem (s.pix.base + 2 * i)

/-- The byte address of `TXB[k][j]` in transfer space (R12, R56). -/
def txAddr (b : Buffer) (j : Nat) : Nat := b.physBase + wordBytes * j

/-- `TXB[k][j]` (R12). -/
def readTx (s : State) (b : Buffer) (j : Nat) : Option Word :=
  read32 s.cfg.endian s.txMem (txAddr b j)

/-! ### Outcomes -/

/-- `a ; b` (R12): a fault or a refusal ends the operation. -/
def andThen (o : Out) (f : State → Out) : Out :=
  match o with
  | .next s => f s
  | .fault r => .fault r
  | .refused r => .refused r

/-! ### The register map -/

/-- The place of a field at `l` of the block based at `base`. -/
def placeAt (base : Nat) (l : Loc) : RegPlace := ⟨base + l.off, l⟩

/-- A whole 32-bit register at `off` of the block based at `base` (R52). -/
def placeWhole (base off : Nat) : RegPlace := placeAt base ⟨off, 0, 32⟩

/-- The fields of pin `p`; a pin the map does not list has them at offset 0, with no bits
(notes/assumptions/35.md). -/
def RegMap.pin (m : RegMap) (p : Nat) : PinLocs := m.pins.getD p ⟨⟨0, 0, 0⟩, ⟨0, 0, 0⟩, ⟨0, 0, 0⟩⟩

/-- The registers of channel `c`; a channel the map does not list has them at offset 0
(notes/assumptions/35.md). -/
def RegMap.chan (m : RegMap) (c : Nat) : ChanLocs := m.chans.getD c ⟨0, 0, 0, 0, ⟨0, 0, 0⟩, ⟨0, 0, 0⟩⟩

/-- The place of every field the rules name (R33, R229). -/
def RegMap.locate (m : RegMap) : RegField → RegPlace
  | .rstDma => placeAt m.crcBase m.rstDma
  | .rstTcon => placeAt m.crcBase m.rstTcon
  | .clkDma => placeAt m.crcBase m.clkDma
  | .clkTcon => placeAt m.crcBase m.clkTcon
  | .pinFunction p => placeAt m.gpioBase (RegMap.pin m p).function
  | .pinDrive p => placeAt m.gpioBase (RegMap.pin m p).drive
  | .pinPull p => placeAt m.gpioBase (RegMap.pin m p).pull
  | .pinData => placeWhole m.gpioBase m.pinDataOff
  | .activeW => placeAt m.tconBase m.activeW
  | .activeH => placeAt m.tconBase m.activeH
  | .hBack => placeAt m.tconBase m.hBack
  | .hFront => placeAt m.tconBase m.hFront
  | .vBack => placeAt m.tconBase m.vBack
  | .vFront => placeAt m.tconBase m.vFront
  | .clkDiv => placeAt m.tconBase m.clkDiv
  | .src c => placeWhole m.dmaBase (RegMap.chan m c).srcOff
  | .dst c => placeWhole m.dmaBase (RegMap.chan m c).dstOff
  | .len c => placeWhole m.dmaBase (RegMap.chan m c).lenOff
  | .ctrl c => placeWhole m.dmaBase (RegMap.chan m c).ctrlOff
  | .enable c => placeAt m.dmaBase (RegMap.chan m c).enable
  | .status c => placeAt m.dmaBase (RegMap.chan m c).status

/-- `REGMAP.pin_data_addr`, the fixed destination of every transfer (R55). -/
def RegMap.pinDataAddr (m : RegMap) : Nat := (RegMap.locate m .pinData).addr

/-- Why a configuration is refused, if it is: R8, D12, R51, R153. The spec gives the register map no other
well-formedness (notes/assumptions/35.md). -/
def configProblem (c : Config) : Option Refusal :=
  if !pinMapOk c then some .pinMapIllFormed
  else if c.nch ≠ 1 then some .channelCountUnsupported
  else if RegMap.pinDataAddr c.regmap % 4 ≠ 0 then some .misalignedBase
  else if c.timing.clkDiv = 0 then some .clkDivZero
  else none

/-! ### State updates -/

/-- Appends to the access trace. -/
def State.log (s : State) (as : List Access) : State := { s with trace := s.trace ++ as }

/-- Sets what the call returns. -/
def State.setRet (s : State) (r : Ret) : State := { s with ret := r }

/-- Replaces channel `c`. -/
def State.setChan (s : State) (c : Nat) (ch : Channel) : State := { s with chans := s.chans.set c ch }

/-- Replaces buffer `k`. -/
def State.setBuf (s : State) (k : Nat) (b : Buffer) : State :=
  { s with pool := { s.pool with bufs := s.pool.bufs.set k b } }

/-- Sets the `armed` index. -/
def State.setArmed (s : State) (a : Option Nat) : State := { s with pool := { s.pool with armed := a } }

/-- Sets the `pending_next` slot, whole (R59). -/
def State.setPending (s : State) (n : Option Nat) : State :=
  { s with pool := { s.pool with pendingNext := n } }

/-- Sets the bring-up state. -/
def State.setBringup (s : State) (b : Bringup) : State := { s with bringup := b }

/-- Sets the current context (R225). -/
def State.setCtx (s : State) (x : Context) : State := { s with irq := { s.irq with ctx := x } }

/-- Sets the mask of the interrupt line (R219). -/
def State.setMasked (s : State) (m : Bool) : State := { s with irq := { s.irq with masked := m } }

/-- Sets the registration of the handler (R35). -/
def State.setAttached (s : State) (a : Bool) : State := { s with irq := { s.irq with attached := a } }

/-- Sets the mode of the pin path (R31). -/
def State.setPinMode (s : State) (m : PinMode) : State := { s with gpio := { s.gpio with pinMode := m } }

/-- Sets `tcon_valid` (R34). -/
def State.setTimingValid (s : State) (v : Bool) : State := { s with tcon := { s.tcon with valid := v } }

/-- Sets `PINDATA`, all 32 bits at once (R30). -/
def State.setPinData (s : State) (w : Word) : State := { s with gpio := { s.gpio with pinData := w } }

/-- Changes channel `c`, if there is one. -/
def State.modChan (s : State) (c : Nat) (f : Channel → Channel) : State :=
  { s with chans := s.chans.modify c f }

/-- Changes the fields of pin `p`, if there is one. -/
def State.modPin (s : State) (p : Nat) (f : Pin → Pin) : State :=
  { s with gpio := { s.gpio with pins := s.gpio.pins.modify p f } }

/-- Changes the clock and reset bits. -/
def State.modCrc (s : State) (f : ClockReset → ClockReset) : State := { s with crc := f s.crc }

/-- Changes the timing configuration. -/
def State.modTcon (s : State) (f : TimingCtl → TimingCtl) : State := { s with tcon := f s.tcon }

/-- The timing generator is not configured, and its fields hold no value (R250). -/
def State.forgetTiming (s : State) : State := { s with tcon := { s.tcon with known := .none, valid := false } }

/-- Changes the producer's own fields. -/
def State.modProducer (s : State) (f : Producer → Producer) : State := { s with producer := f s.producer }

/-- Ends an operation with a value for its caller. -/
def returning (r : Ret) (o : Out) : Out := andThen o fun s => .next (s.setRet r)

/-- The channel `c`, or a refusal (notes/assumptions/24.md). -/
def withChan (s : State) (c : Nat) (f : Channel → Out) : Out :=
  match s.chans[c]? with
  | some ch => f ch
  | none => .refused .noSuchChannel

/-- An operation on buffer `k`: an index outside `0..NPOOL-1` is refused (notes/assumptions/24.md). -/
def ifIndexed (k : Nat) (o : Out) : Out := if k < nPool then o else .refused .noSuchBuffer

/-- The buffer `k`; a pool that is not allocated is a false `require` (R12). -/
def withBuf (s : State) (k : Nat) (f : Buffer → Out) : Out :=
  ifIndexed k <|
    if s.pool.allocated then
      match s.pool.bufs[k]? with
      | some b => f b
      | none => .fault .poolNotAllocated
    else .fault .poolNotAllocated

/-- An operation R226 never allows in interrupt context. -/
def processOnly (s : State) (o : Out) : Out :=
  match s.irq.ctx with
  | .process => o
  | .interrupt => .refused .processContextOnly

/-! ### Register access -/

/-- The value of a Boolean field (notes/assumptions/31.md). -/
def bitValue (b : Bool) : Nat := if b then 1 else 0

/-- The value a field holds. -/
def fieldValue (s : State) : RegField → Nat
  | .rstDma => bitValue s.crc.rstDma
  | .rstTcon => bitValue s.crc.rstTcon
  | .clkDma => bitValue s.crc.clkDma
  | .clkTcon => bitValue s.crc.clkTcon
  | .pinFunction p => (s.gpio.pins.getD p Pin.reset).function
  | .pinDrive p => (s.gpio.pins.getD p Pin.reset).drive
  | .pinPull p => (s.gpio.pins.getD p Pin.reset).pull
  | .pinData => s.gpio.pinData.toNat
  | .activeW => s.tcon.fields.activeW
  | .activeH => s.tcon.fields.activeH
  | .hBack => s.tcon.fields.hBack
  | .hFront => s.tcon.fields.hFront
  | .vBack => s.tcon.fields.vBack
  | .vFront => s.tcon.fields.vFront
  | .clkDiv => s.tcon.fields.clkDiv
  | .src c => (s.chans.getD c Channel.reset).src.toNat
  | .dst c => (s.chans.getD c Channel.reset).dst.toNat
  | .len c => (s.chans.getD c Channel.reset).len.toNat
  | .ctrl c => (s.chans.getD c Channel.reset).ctrl.toNat
  | .enable c => bitValue (s.chans.getD c Channel.reset).enable
  | .status c => bitValue (s.chans.getD c Channel.reset).irqPending

/-- The field holds a value: a rule gives it one at reset, or it was written since (R40, R250). What `PINDATA` holds is
read by no rule (R30), so a read is told nothing of it. -/
def fieldKnown (s : State) : RegField → Bool
  | .rstDma => true
  | .rstTcon => true
  | .clkDma => true
  | .clkTcon => true
  | .pinFunction _ => true
  | .pinDrive _ => true
  | .pinPull _ => true
  | .pinData => false
  | .activeW => s.tcon.known.activeW
  | .activeH => s.tcon.known.activeH
  | .hBack => s.tcon.known.hBack
  | .hFront => s.tcon.known.hFront
  | .vBack => s.tcon.known.vBack
  | .vFront => s.tcon.known.vFront
  | .clkDiv => s.tcon.known.clkDiv
  | .src c => (s.chans.getD c Channel.reset).configured
  | .dst c => (s.chans.getD c Channel.reset).configured
  | .len c => (s.chans.getD c Channel.reset).configured
  | .ctrl c => (s.chans.getD c Channel.reset).configured
  | .enable _ => true
  | .status _ => true

/-- What a read finds in the place of a field: its value, or bits that nothing determines where it holds none
(notes/assumptions/37.md). -/
def fieldRead (s : State) (f : RegField) : Nat :=
  if fieldKnown s f then fieldValue s f
  else (freeRegister s.trace.length).toNat >>> (RegMap.locate s.cfg.regmap f).bits.lsb

/-- Gives a field the value `v`. -/
def setField (f : RegField) (v : Nat) (s : State) : State :=
  match f with
  | .rstDma => s.modCrc fun x => { x with rstDma := decide (v ≠ 0) }
  | .rstTcon => s.modCrc fun x => { x with rstTcon := decide (v ≠ 0) }
  | .clkDma => s.modCrc fun x => { x with clkDma := decide (v ≠ 0) }
  | .clkTcon => s.modCrc fun x => { x with clkTcon := decide (v ≠ 0) }
  | .pinFunction p => s.modPin p fun x => { x with function := v }
  | .pinDrive p => s.modPin p fun x => { x with drive := v }
  | .pinPull p => s.modPin p fun x => { x with pull := v }
  | .pinData => s.setPinData (BitVec.ofNat 32 v)
  | .activeW =>
    s.modTcon fun x => { x with fields := { x.fields with activeW := v }, known := { x.known with activeW := true } }
  | .activeH =>
    s.modTcon fun x => { x with fields := { x.fields with activeH := v }, known := { x.known with activeH := true } }
  | .hBack =>
    s.modTcon fun x => { x with fields := { x.fields with hBack := v }, known := { x.known with hBack := true } }
  | .hFront =>
    s.modTcon fun x => { x with fields := { x.fields with hFront := v }, known := { x.known with hFront := true } }
  | .vBack =>
    s.modTcon fun x => { x with fields := { x.fields with vBack := v }, known := { x.known with vBack := true } }
  | .vFront =>
    s.modTcon fun x => { x with fields := { x.fields with vFront := v }, known := { x.known with vFront := true } }
  | .clkDiv =>
    s.modTcon fun x => { x with fields := { x.fields with clkDiv := v }, known := { x.known with clkDiv := true } }
  | .src c => s.modChan c fun x => { x with src := BitVec.ofNat 32 v }
  | .dst c => s.modChan c fun x => { x with dst := BitVec.ofNat 32 v }
  | .len c => s.modChan c fun x => { x with len := BitVec.ofNat 32 v }
  | .ctrl c => s.modChan c fun x => { x with ctrl := BitVec.ofNat 32 v }
  | .enable c => s.modChan c fun x => { x with enable := decide (v ≠ 0) }
  | .status c => s.modChan c fun x => { x with irqPending := decide (v ≠ 0) }

/-- Every field of the register space (R33). -/
def allFields (c : Config) : List RegField :=
  [.rstDma, .rstTcon, .clkDma, .clkTcon, .pinData, .activeW, .activeH, .hBack, .hFront, .vBack, .vFront, .clkDiv] ++
    ((List.range nPins).flatMap fun p => [.pinFunction p, .pinDrive p, .pinPull p]) ++
    (List.range c.nch).flatMap fun n => [.src n, .dst n, .len n, .ctrl n, .enable n, .status n]

/-- The bits of a register that no rule names. -/
def otherBits : OtherBits → Nat → Word
  | [], _ => 0
  | (a, w) :: m, x => if x = a then w else otherBits m x

/-- The 32-bit register at an address as a read gives it (R52): the fields it holds, over the bits no rule names. -/
def registerWord (s : State) (addr : Nat) : Word :=
  (allFields s.cfg).foldl
    (fun w f =>
      let place := RegMap.locate s.cfg.regmap f
      if place.addr = addr then insertBits place.bits (fieldRead s f) w else w)
    (otherBits s.regOther addr)

/-- The two accesses of a read-modify-write: the register is read, and written back with the field changed and
every other bit as read (R66). A field of that register that holds no value gives the read half free bits, and the
operation goes on (DESIGN CHOICE, notes/assumptions/37.md). -/
def regAccesses (f : RegField) (v : Nat) (s : State) : List Access :=
  let place := RegMap.locate s.cfg.regmap f
  [.read place.addr (registerWord s place.addr),
    .write place.addr f (insertBits place.bits v (registerWord s place.addr))]

/-- `REG.<name> <- v` (R12, R66): a read-modify-write that changes the named field alone, with nothing between its read
and its write-back. Where another agent can write the same register between them (R53 (d)) the producer can issue the two
halves as steps of their own: `readHalf` and `writeHalf` (notes/assumptions/38.md). -/
def regWrite (f : RegField) (v : Nat) (s : State) : State := (setField f v s).log (regAccesses f v s)

/-- The register writes of a list of fields, one after the other. -/
def regWrites : List (RegField × Nat) → State → State
  | [], s => s
  | (f, v) :: fs, s => regWrites fs (regWrite f v s)

/-- The read half of the first register access of an operation, which another agent's write may follow (R53 (d)). -/
def readHalf (op : TornOp) (s : State) : State :=
  let addr := (RegMap.locate s.cfg.regmap op.field).addr
  let w := registerWord s addr
  (s.modProducer fun p => { p with halfWrite := some ⟨op, w⟩ }).log [.read addr w]

/-- The write-back (R53 (d), R66): the word has every bit but the field's as read. The field alone changes: a completion
status set meanwhile stays set until it is acknowledged (R22, R218), and an enable bit set or cleared meanwhile stays so
(R28), whatever stale bits of theirs stand in that word (notes/assumptions/38.md). -/
def writeHalf (h : HalfWrite) (s : State) : State :=
  let place := RegMap.locate s.cfg.regmap h.op.field
  ((setField h.op.field 0 s).modProducer fun p => { p with halfWrite := none }).log
    [.write place.addr h.op.field (insertBits place.bits 0 h.read)]

/-! ### Errors, and the entry into and the return from the handler -/

/-- The code of an error (R210). -/
def PipeError.code : PipeError → Nat
  | .allocationFailure _ => 1
  | .geometryMismatch _ _ => 2
  | .interruptLost _ => 3
  | .resourceBusy _ => 4

/-- The error of R210 that a fault stands for, with its channel: InterruptLost is a stuck condition (R213)
and ResourceBusy an undefined run (R214), so neither is raised (notes/assumptions/15.md). -/
def Fault.error : Fault → Option PipeError
  | .interruptLost c => some (.interruptLost c)
  | .resourceBusy c => some (.resourceBusy c)
  | .nonCanonicalWord => none
  | .strobeUnspecified => none
  | .notAPair => none
  | .pinsNotData => none
  | .poolNotAllocated => none
  | .poolAllocated => none
  | .bufferInUse => none
  | .encodeInProgress => none
  | .bufferNotEncoded => none
  | .pixelUnwritten => none
  | .wordUnwritten => none
  | .pathNotValid => none
  | .channelUnconfigured => none
  | .startBeforeRearm => none
  | .swapOutsideHandler => none
  | .handlerNotAttached => none
  | .publishArmed => none
  | .freeWhileInUse => none
  | .noArmedBuffer => none
  | .engineIdle => none
  | .timingBlockOff => none
  | .timingNotValid => none

/-- `raise <Error>(info)` (R12, R36): the error is recorded and returned; nothing else is written. -/
def raiseError (e : PipeError) (s : State) : Out := .next { s with err := some e, ret := .error e }

/-- Entry into the handler (R221): it saves nothing and switches to interrupt context. -/
def enterHandler (s : State) : State := s.setCtx .interrupt

/-- Return from the handler (R224): process context again. -/
def leaveHandler (s : State) : State := s.setCtx .process

/-! ### Pins -/

/-- What the panel sees of a write of `w` to `PINDATA` (R118): it latches when the strobe rises, then
remembers the strobe. -/
def panelSees (c : Config) (w : Word) (p : Panel) : Panel where
  strobeSeen := strobeBit c w
  strobeKnown := true
  latched :=
    if strobeBit c w && !p.strobeSeen then p.latched ++ [⟨markerBit c w, unspread c w⟩] else p.latched

/-- The state after a write of `PINDATA`, all 32 bits at once and with no read (R30, R31, R66, R118): in
`Signal` mode the panel does not see it. -/
def pinWritten (w : Word) (s : State) : State :=
  { (s.setPinData w).log [.write (RegMap.pinDataAddr s.cfg.regmap) .pinData w] with
    panel :=
      match s.gpio.pinMode with
      | .signal => s.panel
      | .data => panelSees s.cfg w s.panel }

/-- The latch of this write would depend on a strobe level that holds no value (R272). -/
def latchUndetermined (w : Word) (s : State) : Bool :=
  decide (s.gpio.pinMode = .data) && strobeBit s.cfg w && !s.panel.strobeKnown

/-- `PINDATA <- w` (R30, R53, R118). A non-canonical word is a fault (R273), and so is
a word whose latch would depend on a strobe level that holds no value (R272). -/
def pinWrite (w : Word) (s : State) : Out :=
  if !canonical s.cfg w then .fault .nonCanonicalWord
  else if latchUndetermined w s then .fault .strobeUnspecified
  else .next (pinWritten w s)

/-- `PINDATA <- lo ; PINDATA <- hi` of a pair, with the faults of R121. -/
def emitWords (lo hi : Word) (s : State) : Out :=
  if isPair s.cfg lo hi then
    match s.gpio.pinMode with
    | .data => andThen (pinWrite lo s) (pinWrite hi)
    | .signal => .fault .pinsNotData
  else .fault .notAPair

/-- The items of `PANEL_INIT`, each emitted as one pair (R155). -/
def emitItems : List PanelItem → State → Out
  | [], s => .next s
  | it :: items, s =>
    let pair := encWord s.cfg it.dc (cmdValue it.byte)
    andThen (emitWords pair.1 pair.2 s) (emitItems items)

/-! ### Writing a TransferBuffer -/

/-- A buffer that must not be written: armed, published (R261), or being streamed by an enabled channel
(00_scope R14, "Armed"; notes/assumptions/21.md). -/
def bufferInUse (s : State) (k : Nat) (b : Buffer) : Bool :=
  decide (s.pool.armed = some k) || decide (s.pool.pendingNext = some k) ||
    s.chans.any fun ch => ch.enable && decide (ch.src.toNat = b.physBase)

/-- `TXB[k][j] <- w0 ; TXB[k][j+1] <- w1` (R130). -/
def writeTxPair (b : Buffer) (j : Nat) (pair : Word × Word) (s : State) : State :=
  { s with
    txMem := write32 s.cfg.endian (write32 s.cfg.endian s.txMem (txAddr b j) pair.1) (txAddr b (j + 1)) pair.2 }

/-! ### DMA channels -/

/-- Marks that a channel's four fields hold a value (R272). -/
def State.markConfigured (s : State) (c : Nat) : State := s.modChan c fun ch => { ch with configured := true }

/-- The four register writes of `DMA_CONFIGURE` with buffer `b` (R187, R196). -/
def configureWrites (cfg : Config) (c : Nat) (b : Buffer) : List (RegField × Nat) :=
  [(.src c, b.physBase), (.dst c, RegMap.pinDataAddr cfg.regmap), (.len c, frameBytes), (.ctrl c, cfg.ctrlWord.toNat)]

/-- The line must be masked while the four registers are written: the hardware does not update them
atomically, and the context is process (R219). -/
def maskNeeded (s : State) : Bool := !s.cfg.hwAtomicRegUpdate && decide (s.irq.ctx = .process)

/-- The state after a configuration: the four writes, between `mask` and `unmask` where R219 asks for it. -/
def configuredState (c : Nat) (b : Buffer) (s : State) : State :=
  let writes := fun s => (regWrites (configureWrites s.cfg c b) s).markConfigured c
  if maskNeeded s then ((writes ((s.setMasked true).log [.mask])).setMasked false).log [.unmask] else writes s

/-- `configure(channel, buffer)` (R187, R196). -/
def configure (c k : Nat) (s : State) : Out :=
  withChan s c fun ch =>
    withBuf s k fun b =>
      if ch.enable then .fault (.resourceBusy c)
      else if s.producer.encoding = some k then .fault .encodeInProgress
      else if !b.encoded then .fault .bufferNotEncoded
      else .next (configuredState c b s)

/-- A channel's configuration as an operation of its own: in process context only `BRG_ARM` writes a channel's
source (R226, R267), so one that would go on is a fault there (notes/assumptions/16.md). -/
def handlerOnly (s : State) (o : Out) : Out :=
  match s.irq.ctx with
  | .interrupt => o
  | .process => andThen o fun _ => .fault .swapOutsideHandler

/-- The DMA-to-pin path is valid (R188). -/
def pathValid (s : State) : Bool :=
  decide (s.gpio.pinMode = .data) && s.tcon.valid && s.crc.clkDma

/-- The state after a stopped channel is started (R188): from word 0. -/
def startedState (c : Nat) (s : State) : State :=
  regWrite (.enable c) 1 (s.modChan c fun ch => { ch with dmaPos := 0 })

/-- `start(channel)` (R188, R270): idempotent while the channel runs. -/
def start (c : Nat) (s : State) : Out :=
  withChan s c fun ch =>
    if ch.enable then .next s
    else if !pathValid s then .fault .pathNotValid
    else if !ch.configured then .fault .channelUnconfigured
    else if ch.irqPending && decide (s.irq.ctx = .process) then .fault .startBeforeRearm
    else .next (startedState c s)

/-- `stop(channel)` (R189): no completion, and the position stays. -/
def stop (c : Nat) (s : State) : Out := withChan s c fun _ => .next (regWrite (.enable c) 0 s)

end Sys2Proof.Machine
end

