-- ==== Sys2Proof/Machine/Flags.lean ====
section
/-! DEFINITION. The completion flag `irq_pending` (10_state R22): setting it, acknowledging it, the
interrupt line it drives (60_exceptions R217 to R221), and the InterruptLost condition (R213). -/

namespace Sys2Proof.Machine

/-- Completion (R193): the channel is disabled and its flag set; a completion that finds the flag set is
not signalled, which is InterruptLost (R213). -/
def complete (ch : Channel) : Channel :=
  { ch with enable := false, irqPending := true, lost := ch.lost || ch.irqPending }

/-- Acknowledge (R190): the completion status is cleared; with nothing pending the channel stays as it is. -/
def acknowledge (c : Nat) (s : State) : Out := withChan s c fun _ => .next (regWrite (.status c) 0 s)

/-- The interrupt line (R217): asserted while some channel's completion is pending. -/
def lineAsserted (s : State) : Bool := s.chans.any (·.irqPending)

/-- The place of the first channel that satisfies `p`, counting from `c` (R220: channels are served in
ascending order). -/
def firstChannel (p : Channel → Bool) : Nat → List Channel → Option Nat
  | _, [] => none
  | c, ch :: chs => if p ch then some c else firstChannel p (c + 1) chs

/-- The channel whose handler is entered now, if any (R221): pending and not lost, the handler attached,
the line not masked, and not already inside the handler (R224). -/
def deliverable (s : State) : Option Nat :=
  if s.irq.attached && !s.irq.masked && decide (s.irq.ctx = .process) then
    firstChannel (fun ch => ch.irqPending && !ch.lost) 0 s.chans
  else none

/-- The words of a channel's transfer, `len/4` (R192). -/
def Channel.words (ch : Channel) : Nat := ch.len.toNat / wordBytes

/-- The channel the engine can step, if any (R192): enabled with words remaining. -/
def engineReady (s : State) : Option Nat :=
  firstChannel (fun ch => ch.enable && decide (ch.dmaPos < ch.words)) 0 s.chans

/-- The channel whose refresh loop is stuck, if any (R213, U23): armed, its completion pending, and neither the
engine nor the handler has a step. -/
def stuckChannel (s : State) : Option Nat :=
  if decide (s.bringup = .armed) && (deliverable s).isNone && (engineReady s).isNone then
    firstChannel (·.irqPending) 0 s.chans
  else none

end Sys2Proof.Machine
end

