-- ==== Sys2Proof/Machine/Dma.lean ====
section
/-! DEFINITION. The DmaChannelSet (43_pool_and_dma, part 2). -/

namespace Sys2Proof.Machine

/-- `DMA_CONFIGURE c, k` (R187, R196), in the handler's context alone (R226, R267). -/
def execDmaConfigure (c k : Nat) (s : State) : Out := handlerOnly s (returning .void (configure c k s))

/-- `DMA_START c` (R188, R270). -/
def execDmaStart (c : Nat) (s : State) : Out := returning .void (start c s)

/-- `DMA_STOP c` (R189). -/
def execDmaStop (c : Nat) (s : State) : Out := processOnly s (returning .void (stop c s))

/-- `DMA_ACK c` (R190), in either context: R226 has it in process context "in `BRG_ARM` only" and names no outcome for
another one, and R250 and D31 need it before a new bring-up; R190 gives it its effect (notes/assumptions/16.md). -/
def execDmaAck (c : Nat) (s : State) : Out := returning .void (acknowledge c s)

/-- An operation begun by its read half (R53 (d)), in process context as the operation itself (R189, R190, R158). -/
def beginTorn (op : TornOp) (s : State) : Out :=
  processOnly s (withChan s op.channel fun _ => .next (readHalf op s))

/-- `clear_and_rearm(channel, next_buffer)` (R191, R265): acknowledge, configure, start, in that order. -/
def rearm (c k : Nat) (s : State) : Out :=
  andThen (acknowledge c s) fun s => andThen (configure c k s) (start c)

/-- `DMA_REARM c, k` (R191), in the handler's context alone (R226, R267). -/
def execDmaRearm (c k : Nat) (s : State) : Out := handlerOnly s (returning .void (rearm c k s))

/-- The channel after one more word (R192, R193). -/
def channelAfterWord (ch : Channel) : Channel :=
  let ch' := { ch with dmaPos := ch.dmaPos + 1 }
  if ch.dmaPos + 1 = ch.words then complete ch' else ch'

/-- `DMA_XFER c` (R192): one word from the armed buffer, through its physical address, to `PINDATA`. The
pins must be in `Data` mode (R252) and the timing generator configured (R162). -/
def execDmaXfer (c : Nat) (s : State) : Out :=
  withChan s c fun ch =>
    if ch.enable && decide (ch.dmaPos < ch.words) then
      if s.gpio.pinMode ≠ .data then .fault .pinsNotData
      else if !s.tcon.valid then .fault .timingNotValid
      else
        match read32 s.cfg.endian s.txMem (ch.src.toNat + wordBytes * ch.dmaPos) with
        | none => .fault .wordUnwritten
        | some w => andThen (pinWrite w s) fun s => .next (s.setChan c (channelAfterWord ch))
    else .fault .engineIdle

end Sys2Proof.Machine
end

