-- ==== Sys2Proof/Machine/Pool.lean ====
section
/-! DEFINITION. The TransferBufferPool (43_pool_and_dma, part 1). -/

namespace Sys2Proof.Machine

/-- The allocator's answer to request `k` (R180): a missing answer is a failure, one of the outcomes the
spec admits (notes/assumptions/12.md). -/
def allocAnswer (draws : List AllocDraw) (k : Nat) : AllocDraw := draws.getD k none

/-- The regions of requests `k, k+1, …` (`n` of them), or the index of the first that fails (R180). -/
def allocRegions (draws : List AllocDraw) : Nat → Nat → Except Nat (List Buffer)
  | _, 0 => .ok []
  | k, n + 1 =>
    match allocAnswer draws k with
    | none => .error k
    | some (l, p) =>
      match allocRegions draws (k + 1) n with
      | .ok bs => .ok (⟨l, p, bufWords, false⟩ :: bs)
      | .error j => .error j

/-- A buffer's two bases are multiples of 4 (R51). -/
def Buffer.aligned (b : Buffer) : Bool := decide (b.logicalBase % 4 = 0) && decide (b.physBase % 4 = 0)

/-- A buffer's physical addresses fit a channel's 32-bit source register (R52, R187;
notes/assumptions/11.md). -/
def Buffer.inReach (b : Buffer) : Bool := decide (b.physBase + frameBytes ≤ 2 ^ 32)

/-- Two buffers share no byte, by either of their addresses (R180). -/
def buffersApart (a b : Buffer) : Bool :=
  decide (a.physBase + frameBytes ≤ b.physBase ∨ b.physBase + frameBytes ≤ a.physBase) &&
    decide (a.logicalBase + frameBytes ≤ b.logicalBase ∨ b.logicalBase + frameBytes ≤ a.logicalBase)

/-- The regions are pairwise disjoint (R180). -/
def allApart : List Buffer → Bool
  | [] => true
  | b :: bs => bs.all (buffersApart b) && allApart bs

/-- `POOL_ALLOC` (R180, R181): all eight regions, or none and AllocationFailure with the first index that
failed. A fresh buffer's words hold no value (R26). All requests are answered before a region is looked at, so a failure
comes before R51's refusal (DESIGN CHOICE, notes/assumptions/12.md). -/
def execPoolAlloc (s : State) : Out :=
  processOnly s <|
    if s.pool.allocated then .fault .poolAllocated
    else
      match allocRegions s.allocDraws 0 nPool with
      | .error k => raiseError (.allocationFailure k) { s with pool := { s.pool with bufs := [] }, txMem := [] }
      | .ok bs =>
        if !bs.all Buffer.aligned then .refused .misalignedBase
        else if !allApart bs then .refused .overlappingRegions
        else if !bs.all Buffer.inReach then .refused .regionOutOfReach
        else
          .next ({ s with pool := { s.pool with allocated := true, bufs := bs }, txMem := [] }.setRet .void)

/-- `POOL_BUF i` (R182): the buffer's two addresses and its capacity. R226 does not list it: that it runs in either
context is the model's choice (notes/assumptions/16.md). -/
def execPoolBuf (i : Nat) (s : State) : Out :=
  withBuf s i fun b => .next (s.setRet (.buffer b.logicalBase b.physBase b.capacity))

/-- Freeing is a use-after-free hazard (R185, R266). -/
def freeHazard (s : State) : Bool :=
  s.pool.armed.isSome || s.chans.any (·.enable) || s.irq.attached

/-- Releases all regions (R185): no TransferBuffer exists afterwards. The hazard is a fault whether or not a pool
is allocated (R266, U30); without one, a pool that is not allocated stays as it is. -/
def freePool (s : State) : Out :=
  if freeHazard s then .fault .freeWhileInUse
  else if s.pool.allocated then .next { s with pool := { s.pool with allocated := false, bufs := [] }, txMem := [] }
  else .next s

/-- `POOL_FREE` (R185). -/
def execPoolFree (s : State) : Out := processOnly s (returning .void (freePool s))

/-- The buffers the producer may fill next (R199): neither armed nor published. -/
def fillCandidates (s : State) : List Nat :=
  (List.range nPool).filter fun k => decide (s.pool.armed ≠ some k) && decide (s.pool.pendingNext ≠ some k)

/-- The buffer a notification's encode goes into (R199): the first of `n, n+1, …`, counted round the pool,
that may be filled. Every candidate is the choice of some `n`. -/
def chooseBuffer (s : State) (n : Nat) : Nat :=
  (((List.range nPool).map fun i => (n + i) % nPool).find? fun k => decide (k ∈ fillCandidates s)).getD 0

/-- `PUBLISH_NEXT k` (R197, R59): the slot is written whole, after the encode is complete. No bring-up state is tested:
R251 has its rule hold in the steady state and gives no outcome before it, where the model runs it alike (the model's
choice, notes/assumptions/41.md). -/
def execPublishNext (k : Nat) (s : State) : Out :=
  processOnly s <|
    withBuf s k fun b =>
      if !b.encoded then .fault .bufferNotEncoded
      else if s.pool.armed = some k then .fault .publishArmed
      else .next (((s.setPending (some k)).log [.slotPut k]).setRet .void)

/-- `QUERY_INFLIGHT` (R198): published and not yet swapped in. -/
def execQueryInflight (s : State) : Out := .next (s.setRet (.flag s.pool.pendingNext.isSome))

end Sys2Proof.Machine
end

