-- ==== Sys2Proof/Machine/Bringup.lean ====
section
/-! DEFINITION. The bring-up state machine and teardown (42_timing_and_bringup). -/

namespace Sys2Proof.Machine

/-- A forward transition (R159, R161): process context, its own source state, and no error in this
pipeline lifetime; otherwise refused. -/
def bringupFrom (b : Bringup) (s : State) (o : Out) : Out :=
  processOnly s <|
    if s.bringup ≠ b then .refused .wrongBringupState
    else if s.err.isSome then .refused .bringupAborted
    else o

/-- `BRG_CLOCKS` (R151): resets released, then clocks on. -/
def execBrgClocks (s : State) : Out :=
  bringupFrom .unconfigured s <|
    .next (((regWrites [(.rstDma, 0), (.rstTcon, 0), (.clkDma, 1), (.clkTcon, 1)] s).setBringup
      .clocksEnabled).setRet .void)

/-- The register writes of `BRG_PINS`: each named pin in bus drive mode, with the configured strength and pull
(R152). -/
def pinWrites (c : Config) : List (RegField × Nat) :=
  (namedPins c).flatMap fun p =>
    [(.pinFunction p, c.regmap.busFunction), (.pinDrive p, c.regmap.driveStrength), (.pinPull p, c.regmap.pull)]

/-- `BRG_PINS` (R152, R269). -/
def execBrgPins (s : State) : Out :=
  bringupFrom .clocksEnabled s <|
    .next ((((regWrites (pinWrites s.cfg) s).setPinMode .data).setBringup .pinsConfigured).setRet .void)

/-- The register writes of `TCON_CFG` (R154). -/
def timingWrites (t : Timing) : List (RegField × Nat) :=
  [(.activeW, t.activeW), (.activeH, t.activeH), (.hBack, t.hBack), (.hFront, t.hFront), (.vBack, t.vBack),
    (.vFront, t.vFront), (.clkDiv, t.clkDiv)]

/-- `TCON_CFG TIMING` (R154): the state is checked before the geometry (R220), the geometry before any register write
(R212). -/
def execTconCfg (t : TimingOperand) (s : State) : Out :=
  let r := t.record s.cfg
  bringupFrom .pinsConfigured s <|
    if !s.crc.clkTcon || s.crc.rstTcon then .fault .timingBlockOff
    else if !r.activeOk then raiseError (.geometryMismatch (.active r.activeW r.activeH) (.active panelW panelH)) s
    else if r.clkDiv = 0 then .refused .clkDivZero
    else .next ((((regWrites (timingWrites r) s).setTimingValid true).setBringup .timingConfigured).setRet .void)

/-- `BRG_INIT PANEL_INIT` (R155), with the precondition `tcon_valid` (R162). -/
def execBrgInit (items : PanelOperand) (s : State) : Out :=
  bringupFrom .timingConfigured s <|
    if !s.tcon.valid then .fault .timingNotValid
    else andThen (emitItems (items.items s.cfg) s) fun s => .next ((s.setBringup .streamingCommand).setRet .void)

/-- `BRG_ARM c, k0` (R156): the first arm. The channel is looked at last, in its configure: with a channel outside
0..NCH-1 too the missing pool, the unencoded buffer and the missing handler are the fault, which is the model's choice,
for the spec gives that operand no outcome (notes/assumptions/24.md). `pending_next` is not looked at: if `k0` was
published before, the slot keeps it, and the handler then arms the same buffer again (R251 leaves such a publish without
a rule; the model's choice, notes/assumptions/41.md). -/
def execBrgArm (c k : Nat) (s : State) : Out :=
  bringupFrom .streamingCommand s <|
    withBuf s k fun b =>
      if !b.encoded then .fault .bufferNotEncoded
      else if !s.irq.attached then .fault .handlerNotAttached
      else
        andThen (configure c k s) fun s =>
          andThen (start c s) fun s =>
            .next ((((s.setArmed (some k)).log [.armedSet (some k)]).setBringup .armed).setRet .void)

/-- `stop` of every channel (R158), from channel `c` on, `n` of them. -/
def stopAll : Nat → Nat → State → Out
  | _, 0, s => .next s
  | c, n + 1, s => andThen (stop c s) (stopAll (c + 1) n)

/-- The pipeline object is destroyed (R250): its error record and the InterruptLost marks go with it, and so do the
notifications it has not served (notes/assumptions/23.md and 33.md). -/
def forgetPipeline (s : State) : State :=
  { s.modProducer fun p => { p with notes := [], thenPublish := none } with
    err := none
    chans := s.chans.map fun ch => { ch with lost := false } }

/-- `TEARDOWN` after its `DMA_STOP`s (R158, R250): detach the handler, clear the slots, free the pool, clocks off. The
pin mode and the reset lines stay; nothing is acknowledged. The clear of `pending_next` stands in the trace as a `slotTake`
of its old contents, as the handler's does, though nothing is read here: the spec gives no trace of it, and the entry is
the model's choice (notes/assumptions/6.md). -/
def teardownRest (s : State) : Out :=
  andThen (freePool
    ((((s.setAttached false).setArmed none).setPending none).log
      [.armedSet none, .slotTake s.pool.pendingNext])) fun s =>
    .next ((forgetPipeline
      (((regWrites [(.clkDma, 0), (.clkTcon, 0)] s).forgetTiming).setBringup .unconfigured)).setRet .void)

/-- `TEARDOWN` (R158, R250): stop all channels, then the rest. It is one step when it is issued as one operation, and two
when it is begun by the read half of its first `DMA_STOP` (`finishTorn`): R158 gives the order and not that no handler
runs between the parts that follow, in which the model lets none run (its choice, notes/assumptions/39.md). -/
def execTeardown (s : State) : Out := processOnly s (andThen (stopAll 0 s.chans.length s) teardownRest)

/-- What is left of an operation begun by its read half (R53 (d)): the write-back, and of a `TEARDOWN` all that follows
its first `DMA_STOP` (R158). -/
def finishTorn (h : HalfWrite) (s : State) : Out :=
  match h.op with
  | .dmaStop _ => .next ((writeHalf h s).setRet .void)
  | .dmaAck _ => .next ((writeHalf h s).setRet .void)
  | .teardown => andThen (stopAll 1 (s.chans.length - 1) (writeHalf h s)) teardownRest

end Sys2Proof.Machine
end

