-- ==== Sys2Proof/Machine/Frame.lean ====
section
/-! DEFINITION. `ENC_FRAME` (41_frame_ops), in the step-by-step reading of R135: the instruction is step 0
and starts the encode; each further step encodes one pixel. -/

namespace Sys2Proof.Machine

/-- `ENC_FRAME k`, step 0 (R130, R134, R135, R136): the geometry is checked before any access; the
buffer's mark is cleared and the command pair written. With an encode in progress and a wrong size as well, the fault
for the encode comes before GeometryMismatch, which is the model's choice (notes/assumptions/8.md); no step comes to it. -/
def execEncFrame (k : Nat) (s : State) : Out :=
  processOnly s <| ifIndexed k <|
    if s.producer.encoding.isSome then .fault .encodeInProgress
    else if s.pix.bytes ≠ pixelBytes then raiseError (.geometryMismatch (.bytes s.pix.bytes) (.bytes pixelBytes)) s
    else
      withBuf s k fun b =>
        if b.capacity ≠ bufWords then raiseError (.geometryMismatch (.words b.capacity) (.words bufWords)) s
        else if bufferInUse s k b then .fault .bufferInUse
        else
          .next ((writeTxPair b 0 (encWord s.cfg false (cmdValue s.cfg.cmdWritePixels))
            ((s.setBuf k { b with encoded := false }).modProducer fun p =>
              { p with encoding := some k, encIdx := 0 })).setRet .void)

/-- The producer after pixel `i` of the encode into `k` (R135): complete when every pixel is done. -/
def producerAfter (k i : Nat) (p : Producer) : Producer :=
  { p with encoding := if i + 1 = nPix then none else some k, encIdx := i + 1 }

/-- Step `i+1` of the encode in progress (R135): it reads `PIX[i]` as it is now (R138), writes its pair,
and at the last pixel sets `encoded[k]`. -/
def encodeStep (s : State) : Out :=
  match s.producer.encoding with
  | none => .refused .producerIdle
  | some k =>
    withBuf s k fun b =>
      if bufferInUse s k b then .fault .bufferInUse
      else
        match readPixel s s.producer.encIdx with
        | none => .fault .pixelUnwritten
        | some p =>
          let i := s.producer.encIdx
          .next (writeTxPair b (2 + 2 * i) (encWord s.cfg true p)
            ((s.setBuf k { b with encoded := decide (i + 1 = nPix) }).modProducer (producerAfter k i)))

end Sys2Proof.Machine
end

