-- ==== Sys2Proof/Machine/Handler.lean ====
section
/-! DEFINITION. The FrameCompletionHandler (60_exceptions R221 to R224). It is one step: while it runs the
producer does not (R225), and its channel has no word to move before its last action. -/

namespace Sys2Proof.Machine

/-- The read-and-clear of `pending_next` (R62). -/
def takePending (s : State) : State := (s.setPending none).log [.slotTake s.pool.pendingNext]

/-- Marks a buffer armed (R24). -/
def markArmed (k : Nat) (s : State) : State := (s.setArmed (some k)).log [.armedSet (some k)]

/-- The buffer the handler arms (R194, R222): the published one, or the same one again. -/
def nextArmed (s : State) (same : Nat) : Nat := s.pool.pendingNext.getD same

/-- The body of the handler (R222), with the buffer armed before it as `same`. -/
def handlerBody (c same : Nat) (s : State) : Out :=
  andThen (acknowledge c s) fun s =>
    rearm c (nextArmed s same) (markArmed (nextArmed s same) (takePending s))

/-- `IRQ_FRAME c` (R222). It is entered when the completion of `c` is pending, the handler is attached and
the line is not masked (R221), and it does not nest (R224). A completion that was lost has no handler run
(R213). With no buffer armed it is a fault (R250). -/
def execIrqFrame (c : Nat) (s : State) : Out :=
  withChan s c fun ch =>
    match s.irq.ctx with
    | .interrupt => .refused .handlerNested
    | .process =>
      if !ch.irqPending then .refused .noCompletionPending
      else if ch.lost then .fault (.interruptLost c)
      else if !s.irq.attached then .refused .handlerDetached
      else if s.irq.masked then .refused .interruptMasked
      else
        match s.pool.armed with
        | none => .fault .noArmedBuffer
        | some same => andThen (handlerBody c same (enterHandler s)) fun s => .next (leaveHandler s)

end Sys2Proof.Machine
end

