-- ==== Sys2Proof/Machine/WordOps.lean ====
section
/-! DEFINITION. The TransactionWords and the word-level operations (40_word_ops). -/

namespace Sys2Proof.Machine

/-- `CMD_LO` (R90, R118): the strobe-low command word is put on the pins. -/
def execCmdLo (v : Pixel) (s : State) : Out := pinWrite (encWord s.cfg false v).1 s

/-- `CMD_HI` (R90, R118): the strobe-high command word is put on the pins. -/
def execCmdHi (v : Pixel) (s : State) : Out := pinWrite (encWord s.cfg false v).2 s

/-- `DAT_LO` (R90, R118): the strobe-low data word is put on the pins. -/
def execDatLo (v : Pixel) (s : State) : Out := pinWrite (encWord s.cfg true v).1 s

/-- `DAT_HI` (R90, R118): the strobe-high data word is put on the pins. -/
def execDatHi (v : Pixel) (s : State) : Out := pinWrite (encWord s.cfg true v).2 s

/-- `ENC_CMD b` (R111): the pair is returned, no state is written. -/
def execEncCmd (b : Byte) (s : State) : Out :=
  let pair := encWord s.cfg false (cmdValue b)
  .next (s.setRet (.pair pair.1 pair.2))

/-- `ENC_PIX p` (R113): the pair is returned, no state is written. -/
def execEncPix (p : Pixel) (s : State) : Out :=
  let pair := encWord s.cfg true p
  .next (s.setRet (.pair pair.1 pair.2))

/-- `DEC_WORD w` (R114): the fields are returned, no state is written. -/
def execDecWord (w : Word) (s : State) : Out :=
  let f := decodeFields s.cfg w
  .next (s.setRet (.fields f.1 f.2.1 f.2.2))

/-- `EMIT_PAIR lo, hi` (R121). R226 does not list it: that it runs in either context is the model's choice
(notes/assumptions/16.md). -/
def execEmitPair (lo hi : Word) (s : State) : Out := returning .void (emitWords lo hi s)

end Sys2Proof.Machine
end

