-- ==== Sys2Proof/Machine/Dispatch.lean ====
section
/-! DEFINITION. The dispatch: one arm per constructor of Instr. -/

namespace Sys2Proof.Machine

def exec (i : Instr) (s : State) : Host.Outcome State Fault Refusal :=
  match i with
  | .cmdLo v => Sys2Proof.Machine.execCmdLo v s
  | .cmdHi v => Sys2Proof.Machine.execCmdHi v s
  | .datLo v => Sys2Proof.Machine.execDatLo v s
  | .datHi v => Sys2Proof.Machine.execDatHi v s
  | .encCmd b => Sys2Proof.Machine.execEncCmd b s
  | .encPix p => Sys2Proof.Machine.execEncPix p s
  | .decWord w => Sys2Proof.Machine.execDecWord w s
  | .emitPair lo hi => Sys2Proof.Machine.execEmitPair lo hi s
  | .encFrame k => Sys2Proof.Machine.execEncFrame k s
  | .brgClocks => Sys2Proof.Machine.execBrgClocks s
  | .brgPins => Sys2Proof.Machine.execBrgPins s
  | .tconCfg t => Sys2Proof.Machine.execTconCfg t s
  | .brgInit items => Sys2Proof.Machine.execBrgInit items s
  | .brgArm c k => Sys2Proof.Machine.execBrgArm c k s
  | .teardown => Sys2Proof.Machine.execTeardown s
  | .poolAlloc => Sys2Proof.Machine.execPoolAlloc s
  | .poolBuf k => Sys2Proof.Machine.execPoolBuf k s
  | .poolFree => Sys2Proof.Machine.execPoolFree s
  | .dmaConfigure c k => Sys2Proof.Machine.execDmaConfigure c k s
  | .dmaStart c => Sys2Proof.Machine.execDmaStart c s
  | .dmaStop c => Sys2Proof.Machine.execDmaStop c s
  | .dmaAck c => Sys2Proof.Machine.execDmaAck c s
  | .dmaRearm c k => Sys2Proof.Machine.execDmaRearm c k s
  | .dmaXfer c => Sys2Proof.Machine.execDmaXfer c s
  | .publishNext k => Sys2Proof.Machine.execPublishNext k s
  | .queryInflight => Sys2Proof.Machine.execQueryInflight s
  | .irqFrame c => Sys2Proof.Machine.execIrqFrame c s

end Sys2Proof.Machine
end

