-- ==== Sys2Proof/Machine/Environment.lean ====
section
/-! DEFINITION. What happens outside the operations of the table: the attachment of the handler
(10_state R35), the collaborator's actions (60_exceptions R230 to R233) and the allocator's answers
(43_pool_and_dma R180). -/

namespace Sys2Proof.Machine

/-- The handler is attached to the interrupt line (R35, R251). -/
def attachHandler (s : State) : Out := .next (s.setAttached true)

/-- The collaborator writes `PIX[i]`, at any time (R233), during an `ENC_FRAME` too; outside the PixelBuffer there is no pixel. -/
def collaboratorWrites (i : Nat) (p : Pixel) (s : State) : Out :=
  if 2 * i + 2 ≤ s.pix.bytes then
    .next { s with pix := { s.pix with mem := write16 s.cfg.endian s.pix.mem (s.pix.base + 2 * i) p } }
  else .refused .noSuchPixel

/-- The collaborator hands the PixelBuffer over as a base address and a size (R230); a misaligned base is
refused (R51). A size other than the fixed geometry is met by the next `ENC_FRAME` (R134); one in progress goes
on at the new base, with no new check (the model's choice: U39, notes/assumptions/13.md). -/
def collaboratorHandsOver (base bytes : Nat) (s : State) : Out :=
  if base % 2 = 0 then .next { s with pix := { s.pix with base := base, bytes := bytes } }
  else .refused .misalignedBase

/-- A notification (R232), at any time (R233): it waits for the producer, which will encode into the buffer it
chooses and publish it. The pan offset has no effect inside the block. -/
def collaboratorNotifies (_offset k : Nat) (s : State) : Out :=
  .next (s.modProducer fun p => { p with notes := p.notes ++ [k] })

/-- The allocator's answers to the next `POOL_ALLOC` (R180). -/
def allocatorAnswers (draws : List AllocDraw) (s : State) : Out := .next { s with allocDraws := draws }

end Sys2Proof.Machine
end

