-- ==== Sys2Proof/Machine/Schedule.lean ====
section
/-! DEFINITION. Which agent moves next, and the fetch of its operation. The block has no program counter and
no instruction memory (00_scope R12, 10_state R21): the operations come from `inbox`, in the order in which
they happen (notes/assumptions/3.md and 7.md). -/

namespace Sys2Proof.Machine

/-- The operations the producer issues, in process context (R9, R95): all but the TransactionWords, the engine's step,
the handler, and the collaborator's query. R231 exposes `QUERY_INFLIGHT` to the collaborator; that it is the collaborator
alone who issues it, and is answered at any time, within an `ENC_FRAME` and before an owed publish too, is the model's
choice (notes/assumptions/40.md). -/
def isProducers : Instr → Bool
  | .cmdLo _ => false
  | .cmdHi _ => false
  | .datLo _ => false
  | .datHi _ => false
  | .encCmd _ => true
  | .encPix _ => true
  | .decWord _ => true
  | .emitPair _ _ => true
  | .encFrame _ => true
  | .brgClocks => true
  | .brgPins => true
  | .tconCfg _ => true
  | .brgInit _ => true
  | .brgArm _ _ => true
  | .teardown => true
  | .poolAlloc => true
  | .poolBuf _ => true
  | .poolFree => true
  | .dmaConfigure _ _ => true
  | .dmaStart _ => true
  | .dmaStop _ => true
  | .dmaAck _ => true
  | .dmaRearm _ _ => true
  | .dmaXfer _ => false
  | .publishNext _ => true
  | .queryInflight => false
  | .irqFrame _ => false

/-- The producer is inside an `ENC_FRAME`, which runs to completion before its next operation (R135), has yet to
publish what a notification made it encode (R232), or has done one half of a read-modify-write (R53 (d)). -/
def producerBusy (s : State) : Bool :=
  s.producer.encoding.isSome || s.producer.thenPublish.isSome || s.producer.halfWrite.isSome

/-- A notification waits and can be served: there is a pool to encode into (70_reset_and_hazards R251). -/
def noteWaits (s : State) : Bool := !s.producer.notes.isEmpty && s.pool.allocated

/-- The producer has a step to take by itself. -/
def producerHasWork (s : State) : Bool := producerBusy s || noteWaits s

/-- The producer takes up a notification (R232): `ENC_FRAME k` of the buffer it chooses, to be followed by
`PUBLISH_NEXT k`. After a GeometryMismatch nothing was encoded and nothing is published (DESIGN CHOICE,
notes/assumptions/33.md). -/
def takeUp (n : Nat) (rest : List Nat) (s : State) : Out :=
  let k := chooseBuffer s n
  andThen (exec (.encFrame k) (s.modProducer fun p => { p with notes := rest })) fun t =>
    .next (t.modProducer fun p => { p with thenPublish := p.encoding })

/-- The producer takes up the next notification, if there is one and a pool to encode into (R232). -/
def nextNote (s : State) : Out :=
  if s.pool.allocated then
    match s.producer.notes with
    | n :: rest => takeUp n rest s
    | [] => .refused .producerIdle
  else .refused .producerIdle

/-- A step the producer takes by itself: of its `ENC_FRAME` in progress (R135), else the publish it owes, else what is
left of the operation it has begun (R53 (d)), else the next notification (R232). -/
def producerWork (s : State) : Out :=
  if s.producer.encoding.isSome then encodeStep s
  else
    match s.producer.thenPublish with
    | some k => exec (.publishNext k) (s.modProducer fun p => { p with thenPublish := none })
    | none =>
      match s.producer.halfWrite with
      | some h => finishTorn h s
      | none => nextNote s

/-- The producer's move by itself: a completion that can be delivered is taken at once (R220). -/
def producerMoves (s : State) : Out :=
  match deliverable s with
  | some c => exec (.irqFrame c) s
  | none => producerWork s

/-- What stays to be fetched after an operation. -/
def afterFetch (tail : List Byte) (rest : List Event) : List Event :=
  if tail = [] then rest else .calls tail :: rest

/-- A code that is no instruction: a non-canonical word on the pins is a fault (R273), anything else is
refused (R96). -/
def badCode : DecodeError → Out
  | .nonCanonical _ => .fault .nonCanonicalWord
  | .empty => .refused (.undecodable .empty)
  | .illegalOpsel t => .refused (.undecodable (.illegalOpsel t))
  | .truncated t => .refused (.undecodable (.truncated t))

/-- Fetches and runs the first instruction of a code; `rest` is what comes after the code. While the
producer is busy an operation of its own waits. -/
def runCode (code : Code) (rest : List Event) (s : State) : Out :=
  match decode s.cfg code with
  | .error e => badCode e
  | .ok (i, tail) =>
    if producerBusy s && isProducers i then producerMoves s
    else exec i { s with inbox := afterFetch tail rest }

/-- The `producerStep` event: the producer goes one step on by itself; a deliverable completion comes first, and
the event stays. -/
def runProducerStep (rest : List Event) (s : State) : Out :=
  match deliverable s with
  | some c => exec (.irqFrame c) s
  | none => producerWork { s with inbox := rest }

/-- An action of the producer that is no code: it waits while the producer is busy. -/
def whenFree (s : State) (o : Out) : Out := if producerBusy s then producerMoves s else o

/-- Runs the first event of the inbox, `rest` being the others. -/
def runEvent (e : Event) (rest : List Event) (s : State) : Out :=
  match e with
  | .word w => runCode (.word w) rest s
  | .calls bs => runCode (.bytes bs) rest s
  | .producerStep => if producerHasWork s then runProducerStep rest s else .refused .producerIdle
  | .readHalf op => whenFree s (beginTorn op { s with inbox := rest })
  | .attach => whenFree s (attachHandler { s with inbox := rest })
  | .pixelWrite i p => collaboratorWrites i p { s with inbox := rest }
  | .handOver base bytes => collaboratorHandsOver base bytes { s with inbox := rest }
  | .notify offset k => collaboratorNotifies offset k { s with inbox := rest }
  | .allocator draws => allocatorAnswers draws { s with inbox := rest }

/-- A step with nothing in the inbox: the handler when a completion can be delivered (R220), then the
producer (R135, R232), then the engine (R192); a stuck refresh loop is InterruptLost (R213); otherwise
nothing happens (R236). -/
def idleStep (s : State) : Out :=
  match deliverable s with
  | some c => exec (.irqFrame c) s
  | none =>
    if producerHasWork s then producerWork s
    else
      match engineReady s with
      | some c => exec (.dmaXfer c) s
      | none =>
        match stuckChannel s with
        | some c => .fault (.interruptLost c)
        | none => .next s

/-- A step under a configuration the model admits; otherwise a refusal (00_scope R8, 92_eei_decisions D12,
20_memory R51, 42_timing_and_bringup R153). -/
def ifAdmitted (s : State) (o : Out) : Out :=
  match configProblem s.cfg with
  | some r => .refused r
  | none => o

/-- The event that holds a code. -/
def codeEvent : Code → Event
  | .word w => .word w
  | .bytes bs => .calls bs

/-- `s` with a code fetched next. If the code is an operation of the producer, the producer is free to
issue it. -/
def fetchNext (code : Code) (s : State) : State :=
  { s with
    inbox := codeEvent code :: s.inbox
    producer :=
      match decode s.cfg code with
      | .ok (i, _) => if isProducers i then { s.producer with encoding := none, thenPublish := none, halfWrite := none }
        else s.producer
      | .error _ => s.producer }

end Sys2Proof.Machine
end

