-- ==== Sys2Proof/Machine/Step.lean ====
section
/-! DEFINITION. One step of the machine, and the placing of an instruction where the step fetches it. -/

namespace Sys2Proof.Machine

/-- One step: the first event of the inbox, or with none the agents' own moves. -/
def step (s : State) : Host.Outcome State Fault Refusal :=
  match s.inbox with
  | [] => ifAdmitted s (idleStep s)
  | e :: rest => ifAdmitted s (runEvent e rest s)

/-- `s` with the instruction of a table row as the first thing in the inbox. -/
def State.withFetchWord (s : State) (nbits w : Nat) : State := fetchNext (tableCode nbits w) s

end Sys2Proof.Machine
end

