-- ==== Sys2Proof/Safety.lean ====
section
/-! DEFINITION. What a safe run is: the invariant every step keeps (43_pool_and_dma R186, R196;
30_encoding R94; 10_state R24; 42_timing_and_bringup R159), and the runs of one agent that the statements
about a whole frame speak of. -/

namespace Sys2Proof.Machine

/-! ### Runs of one agent -/

/-- `n` steps of the producer's `ENC_FRAME` (41_frame_ops R135). -/
def encodeRun : Nat → State → Out
  | 0, s => .next s
  | n + 1, s => andThen (encodeStep s) (encodeRun n)

/-- `n` steps of the DMA engine on channel `c` (43_pool_and_dma R192). -/
def xferRun (c : Nat) : Nat → State → Out
  | 0, s => .next s
  | n + 1, s => andThen (exec (.dmaXfer c) s) (xferRun c n)

/-- The pairs of a list emitted one after the other (40_word_ops R119). -/
def emitRun : List (Word × Word) → State → Out
  | [], s => .next s
  | p :: ps, s => andThen (exec (.emitPair p.1 p.2) s) (emitRun ps)

/-- A whole `ENC_FRAME k`: its first step, then one step for each pixel. -/
def encodeWhole (k : Nat) (s : State) : Out := andThen (exec (.encFrame k) s) (encodeRun nPix)

/-! ### What a buffer holds -/

/-- The first `n` words of buffer `b` are those of the frame of the pixels `P` (30_encoding R94). -/
def holdsFrame (s : State) (b : Buffer) (P : Nat → Pixel) (n : Nat) : Prop :=
  ∀ j < n, readTx s b j = some (frameWord s.cfg P j)

/-- What the panel latches of the frame of `P`: the command, then every pixel in order (41_frame_ops R139). -/
def frameLatches (c : Config) (P : Nat → Pixel) : List Latch :=
  ⟨false, cmdValue c.cmdWritePixels⟩ :: (List.range nPix).map fun i => ⟨true, P i⟩

/-- Byte `a` of transfer space lies in buffer `b`. -/
def inBuffer (b : Buffer) (a : Nat) : Prop := b.physBase ≤ a ∧ a < b.physBase + frameBytes

/-! ### Register writes of a trace -/

/-- The register field an access writes, if it is a register write. -/
def Access.field? : Access → Option RegField
  | .read _ _ => none
  | .write _ f _ => some f
  | .slotPut _ => none
  | .slotTake _ => none
  | .armedSet _ => none
  | .mask => none
  | .unmask => none

/-- The register fields written by a list of accesses, in order. -/
def fieldsWritten (as : List Access) : List RegField := as.filterMap Access.field?

/-- Every register write of a list of accesses, but one of `PINDATA`, directly follows a read of the same register,
is made at its field's place, and changes no bit outside that field (20_memory R66). -/
def readModifyWrites (m : RegMap) (as : List Access) : Prop :=
  ∀ pre a f w post, as = pre ++ .write a f w :: post → f ≠ .pinData →
    a = (RegMap.locate m f).addr ∧ ∃ pre' old, pre = pre' ++ [.read a old] ∧
      ∀ n, n < (RegMap.locate m f).bits.lsb ∨ (RegMap.locate m f).bits.lsb + (RegMap.locate m f).bits.width ≤ n →
        w.getLsbD n = old.getLsbD n

/-- A word written over the word read with the bits at `l` cleared and every other bit as read (20_memory R66). -/
def clearedWithin (l : Loc) (old w : Word) : Prop :=
  ∀ n < 32, w.getLsbD n = if l.lsb ≤ n ∧ n < l.lsb + l.width then false else old.getLsbD n

/-! ### The bring-up chain -/

/-- The edge of the chain of 42_timing_and_bringup R150 that an operation takes. -/
def bringupEdge : Instr → Option (Bringup × Bringup)
  | .cmdLo _ => none
  | .cmdHi _ => none
  | .datLo _ => none
  | .datHi _ => none
  | .encCmd _ => none
  | .encPix _ => none
  | .decWord _ => none
  | .emitPair _ _ => none
  | .encFrame _ => none
  | .brgClocks => some (.unconfigured, .clocksEnabled)
  | .brgPins => some (.clocksEnabled, .pinsConfigured)
  | .tconCfg _ => some (.pinsConfigured, .timingConfigured)
  | .brgInit _ => some (.timingConfigured, .streamingCommand)
  | .brgArm _ _ => some (.streamingCommand, .armed)
  | .teardown => none
  | .poolAlloc => none
  | .poolBuf _ => none
  | .poolFree => none
  | .dmaConfigure _ _ => none
  | .dmaStart _ => none
  | .dmaStop _ => none
  | .dmaAck _ => none
  | .dmaRearm _ _ => none
  | .dmaXfer _ => none
  | .publishNext _ => none
  | .queryInflight => none
  | .irqFrame _ => none

/-! ### The invariant -/

/-- The place of a bring-up state in the chain of R150. -/
def Bringup.rank : Bringup → Nat
  | .unconfigured => 0
  | .clocksEnabled => 1
  | .pinsConfigured => 2
  | .timingConfigured => 3
  | .streamingCommand => 4
  | .armed => 5

/-- The pool: eight buffers of one frame each, aligned, in reach of a channel, no two sharing a byte; or none at
all (43_pool_and_dma R180, R181, R183; 20_memory R51, R52). -/
structure PoolGood (s : State) : Prop where
  /-- all eight buffers -/
  size : s.pool.allocated = true → s.pool.bufs.length = nPool
  none : s.pool.allocated = false → s.pool.bufs = [] ∧ s.txMem = []
  shape : ∀ b ∈ s.pool.bufs, b.capacity = bufWords ∧ b.aligned = true ∧ b.inReach = true
  apart : ∀ (i j : Nat) (a b : Buffer), i ≠ j → s.pool.bufs[i]? = some a → s.pool.bufs[j]? = some b →
    buffersApart a b = true
  /-- an encoded buffer holds exactly a frame (30_encoding R94) -/
  encoded : ∀ b ∈ s.pool.bufs, b.encoded = true → ∃ P, holdsFrame s b P bufWords

/-- The producer's `ENC_FRAME` in progress (41_frame_ops R135, R136): its buffer exists, is not encoded, is
neither armed nor published, and the words of the pixels done so far are written. A buffer it owes a publish
(60_exceptions R232) is being encoded, or is encoded and idle. -/
structure EncodeGood (s : State) : Prop where
  position : ∀ k, s.producer.encoding = some k → s.producer.encIdx < nPix
  buffer : ∀ k, s.producer.encoding = some k → ∃ b P, s.pool.bufs[k]? = some b ∧ b.encoded = false ∧
    holdsFrame s b P (2 + 2 * s.producer.encIdx)
  idle : ∀ k, s.producer.encoding = some k → s.pool.armed ≠ some k ∧ s.pool.pendingNext ≠ some k
  publish : ∀ k, s.producer.thenPublish = some k → s.producer.encoding = some k ∨
    (s.producer.encoding = none ∧ s.pool.armed ≠ some k ∧ s.pool.pendingNext ≠ some k ∧
      ∃ b, s.pool.bufs[k]? = some b ∧ b.encoded = true)

/-- A DMA channel (10_state R28, R21; 43_pool_and_dma R188, R196). -/
structure ChannelGood (s : State) (ch : Channel) : Prop where
  /-- the destination, the control word and the length never vary (R196) -/
  fixed : ch.configured = true →
    ch.dst = BitVec.ofNat 32 (RegMap.pinDataAddr s.cfg.regmap) ∧ ch.ctrl = s.cfg.ctrlWord ∧
      ch.len = BitVec.ofNat 32 frameBytes
  position : ch.dmaPos ≤ bufWords
  /-- a running channel was configured, its path is valid (R188) and it has a word to move (R192) -/
  running : ch.enable = true → ch.configured = true ∧ ch.dmaPos < bufWords ∧ pathValid s = true
  /-- after its first word the strobe level is known -/
  strobe : ch.enable = true → ch.dmaPos = 0 ∨ s.panel.strobeKnown = true
  /-- a channel runs only after its completion was acknowledged (70_reset_and_hazards R265) -/
  acknowledged : ch.enable = true → ch.irqPending = false
  /-- so no completion is lost (60_exceptions R213) -/
  kept : ch.lost = false

/-- The armed index (10_state R24; 43_pool_and_dma R186): some buffer is armed exactly in the state `Armed`;
it is fully encoded and every channel's source is its physical base. -/
structure ArmedGood (s : State) : Prop where
  index : s.bringup = .armed ↔ s.pool.armed.isSome = true
  source : ∀ k, s.pool.armed = some k → ∃ b, s.pool.bufs[k]? = some b ∧ b.encoded = true ∧
    ∀ ch ∈ s.chans, ch.configured = true ∧ ch.src.toNat = b.physBase
  /-- the handler stays attached while a buffer is armed (R156, R158) -/
  attached : s.bringup = .armed → s.irq.attached = true

/-- What each bring-up state has established (42_timing_and_bringup R151, R152, R154). -/
structure BringupGood (s : State) : Prop where
  clocks : 1 ≤ s.bringup.rank → s.crc = ⟨true, true, false, false⟩
  pins : 2 ≤ s.bringup.rank → s.gpio.pinMode = .data
  timing : 3 ≤ s.bringup.rank → s.tcon.valid = true
  /-- a valid timing configuration is well formed (R153) -/
  wellFormed : s.tcon.valid = true → s.tcon.fields.activeOk = true ∧ 1 ≤ s.tcon.fields.clkDiv

/-- The invariant of the machine between two steps. -/
structure Inv (s : State) : Prop where
  txCanonical : Memory.wf s.txMem = true
  pixCanonical : Memory.wf s.pix.mem = true
  pixAligned : s.pix.base % 2 = 0
  otherCanonical : OtherBits.wf s.regOther = true
  context : s.irq.ctx = .process
  /-- outside a configuration the line is not masked (60_exceptions R219) -/
  unmasked : s.irq.masked = false
  channels : s.chans.length = s.cfg.nch
  pool : PoolGood s
  encode : EncodeGood s
  /-- an operation begun by its read half is the producer's only work (20_memory R53 (d)) -/
  half : s.producer.halfWrite.isSome = true → s.producer.encoding = none ∧ s.producer.thenPublish = none
  channel : ∀ ch ∈ s.chans, ChannelGood s ch
  armed : ArmedGood s
  bringup : BringupGood s

end Sys2Proof.Machine
end

