-- ==== Sys2Proof/Certificates/Slice0/Obligations.lean ====
section
/-! DEFINITION. The statements for the provers. Each docstring names the rules of spec/ it formalises, and
says where a clause is the model's choice. An update such as `{ t with ret := s.ret } = s` states a
frame: outside the named fields `t` is `s`. -/

open Sys2Proof Sys2Proof.Machine

/-! ### Words (30_encoding, 40_word_ops) -/

/-- R88: the low byte goes to field A and the high byte to field B, bit by bit, and nowhere else. The last two clauses
say it by the colour fields of R6 (R82, R83, R86): field A is the low half of green over blue, field B red over the
high half of green. -/
def Obligations.SpreadPlacesEachByteInItsField : Prop :=
  ∀ (c : Config) (v : Pixel), pinMapOk c = true →
    spread c v = ((v.extractLsb' 0 8).setWidth 32 <<< c.aLsb) ||| ((v.extractLsb' 8 8).setWidth 32 <<< c.bLsb) ∧
    (∀ n < 8, (spread c v).getLsbD (c.aLsb + n) = v.getLsbD n) ∧
    (∀ n < 8, (spread c v).getLsbD (c.bLsb + n) = v.getLsbD (8 + n)) ∧
    (∀ i, (i < c.aLsb ∨ c.aLsb + 8 ≤ i) → (i < c.bLsb ∨ c.bLsb + 8 ≤ i) → (spread c v).getLsbD i = false) ∧
    spread Config.reference v = ((v.setWidth 32 &&& 0x00FF#32) <<< 1) ||| ((v.setWidth 32 &&& 0xFF00#32) <<< 2) ∧
    spread Config.reference v &&& ~~~0x0003FDFE#32 = 0 ∧
    v.toNat = (colour red v).toNat * 2 ^ 11 + (colour green v).toNat * 2 ^ 5 + (colour blue v).toNat ∧
    (∀ n < 5, (spread c v).getLsbD (c.aLsb + n) = (colour blue v).getLsbD n ∧
      (spread c v).getLsbD (c.bLsb + 3 + n) = (colour red v).getLsbD n) ∧
    ∀ n < 3, (spread c v).getLsbD (c.aLsb + 5 + n) = (colour green v).getLsbD n ∧
      (spread c v).getLsbD (c.bLsb + n) = (colour green v).getLsbD (3 + n)

/-- R89: unspreading a word with any marker and strobe over `BASE` gives the value back; field B is the
high byte and field A the low one. -/
def Obligations.UnspreadRecoversTheValue : Prop :=
  ∀ (c : Config), pinMapOk c = true →
    (∀ w : Word, (unspread c w).extractLsb' 8 8 = w.extractLsb' c.bLsb 8 ∧
      (unspread c w).extractLsb' 0 8 = w.extractLsb' c.aLsb 8) ∧
    ∀ (v : Pixel) (dc st : Bool),
      unspread c (c.base ||| spread c v ||| ((BitVec.ofBool dc).setWidth 32 <<< c.dcPos) |||
        ((BitVec.ofBool st).setWidth 32 <<< c.strobePos)) = v

/-- R112: the two words of a pair differ in the strobe alone and carry the same marker and value. -/
def Obligations.PairLaw : Prop :=
  ∀ (c : Config) (dc : Bool) (v : Pixel), pinMapOk c = true →
    strobeBit c (encWord c dc v).1 = false ∧ strobeBit c (encWord c dc v).2 = true ∧
    (encWord c dc v).2 ^^^ (encWord c dc v).1 = 1#32 <<< c.strobePos ∧
    markerBit c (encWord c dc v).1 = dc ∧ markerBit c (encWord c dc v).2 = dc ∧
    unspread c (encWord c dc v).1 = v ∧ unspread c (encWord c dc v).2 = v ∧
    isPair c (encWord c dc v).1 (encWord c dc v).2 = true

/-- R115: the round trip, of the function and of the operations. -/
def Obligations.WordRoundTrip : Prop :=
  (∀ (c : Config) (dc : Bool) (v : Pixel), pinMapOk c = true →
    decodeFields c (encWord c dc v).1 = (dc, false, v) ∧ decodeFields c (encWord c dc v).2 = (dc, true, v)) ∧
  (∀ (s : State) (b : Byte), pinMapOk s.cfg = true → ∃ lo hi,
    exec (.encCmd b) s = .next { s with ret := .pair lo hi } ∧
    exec (.decWord lo) s = .next { s with ret := .fields false false (b.setWidth 16) } ∧
    exec (.decWord hi) s = .next { s with ret := .fields false true (b.setWidth 16) }) ∧
  ∀ (s : State) (p : Pixel), pinMapOk s.cfg = true → ∃ lo hi,
    exec (.encPix p) s = .next { s with ret := .pair lo hi } ∧
    exec (.decWord lo) s = .next { s with ret := .fields true false p } ∧
    exec (.decWord hi) s = .next { s with ret := .fields true true p }

/-- R120: different operands give different words, and no command word is a data word. -/
def Obligations.WordEncodingIsInjective : Prop :=
  ∀ (c : Config), pinMapOk c = true → ∀ (dc dc' : Bool) (v v' : Pixel),
    ((encWord c dc v).1 = (encWord c dc' v').1 → dc = dc' ∧ v = v') ∧
    ((encWord c dc v).2 = (encWord c dc' v').2 → dc = dc' ∧ v = v')

/-- R111, R113, R114: the word functions complete in every state, return what the rules give and write
nothing else. -/
def Obligations.WordFunctionsReturn : Prop :=
  (∀ (s : State) (b : Byte), pinMapOk s.cfg = true → ∃ lo hi,
    exec (.encCmd b) s = .next { s with ret := .pair lo hi } ∧
    lo = s.cfg.base ||| (b.setWidth 32 <<< s.cfg.aLsb) ∧ hi = lo ||| (1#32 <<< s.cfg.strobePos) ∧
    lo.extractLsb' s.cfg.bLsb 8 = 0 ∧ lo.getLsbD s.cfg.dcPos = false ∧ hi.getLsbD s.cfg.dcPos = false) ∧
  (∀ (s : State) (p : Pixel), ∃ lo hi,
    exec (.encPix p) s = .next { s with ret := .pair lo hi } ∧
    lo = s.cfg.base ||| ((p.extractLsb' 0 8).setWidth 32 <<< s.cfg.aLsb) |||
      ((p.extractLsb' 8 8).setWidth 32 <<< s.cfg.bLsb) ||| (1#32 <<< s.cfg.dcPos) ∧
    hi = lo ||| (1#32 <<< s.cfg.strobePos)) ∧
  ∀ (s : State) (w : Word), ∃ v : Pixel,
    exec (.decWord w) s = .next { s with ret := .fields (w.getLsbD s.cfg.dcPos) (w.getLsbD s.cfg.strobePos) v } ∧
    ∀ i < 16, v.getLsbD i = if i < 8 then w.getLsbD (s.cfg.aLsb + i) else w.getLsbD (s.cfg.bLsb + (i - 8))

/-- R90, R92: an encoded word is canonical and of the kind its marker and strobe name. -/
def Obligations.EncodedWordsAreCanonical : Prop :=
  ∀ (c : Config) (v : Pixel), pinMapOk c = true →
    (∀ dc, canonical c (encWord c dc v).1 = true ∧ canonical c (encWord c dc v).2 = true) ∧
    kindOf c (encWord c false v).1 = .cmdLo ∧ kindOf c (encWord c false v).2 = .cmdHi ∧
    kindOf c (encWord c true v).1 = .datLo ∧ kindOf c (encWord c true v).2 = .datHi

/-- R94: the grammar of a frame. -/
def Obligations.FrameGrammar : Prop :=
  ∀ (c : Config) (P : Nat → Pixel), pinMapOk c = true →
    bufWords = 2 + 2 * nPix ∧
    (frameWord c P 0, frameWord c P 1) = encWord c false (cmdValue c.cmdWritePixels) ∧
    (∀ i < nPix, (frameWord c P (2 + 2 * i), frameWord c P (3 + 2 * i)) = encWord c true (P i)) ∧
    (∀ j < bufWords, strobeBit c (frameWord c P j) = decide (j % 2 = 1)) ∧
    (∀ j < bufWords, markerBit c (frameWord c P j) = decide (2 ≤ j)) ∧
    ∀ j < bufWords, canonical c (frameWord c P j) = true

/-- R121, with R118 and R119 for what its two writes latch: a pair is written in order and latched once
whatever the strobe was; anything else is a fault. -/
def Obligations.EmitPairWritesAndLatchesOnce : Prop :=
  ∀ (s : State) (lo hi : Word),
    (isPair s.cfg lo hi = true → s.gpio.pinMode = .data → pinMapOk s.cfg = true →
      canonical s.cfg lo = true → canonical s.cfg hi = true →
      ∃ t, exec (.emitPair lo hi) s = .next t ∧
        t.gpio.pinData = hi ∧ t.panel.strobeSeen = true ∧ t.panel.strobeKnown = true ∧
        t.panel.latched = s.panel.latched ++ [⟨markerBit s.cfg lo, unspread s.cfg lo⟩] ∧
        t.trace = s.trace ++ [.write (RegMap.pinDataAddr s.cfg.regmap) .pinData lo,
          .write (RegMap.pinDataAddr s.cfg.regmap) .pinData hi] ∧
        t.ret = .void ∧
        { t with gpio := { t.gpio with pinData := s.gpio.pinData }, panel := s.panel, trace := s.trace,
                 ret := s.ret } = s) ∧
    (isPair s.cfg lo hi = false → ∃ r, exec (.emitPair lo hi) s = .fault r) ∧
    (s.gpio.pinMode = .signal → ∃ r, exec (.emitPair lo hi) s = .fault r) ∧
    (canonical s.cfg lo = false → ∃ r, exec (.emitPair lo hi) s = .fault r) ∧
    (canonical s.cfg hi = false → ∃ r, exec (.emitPair lo hi) s = .fault r)

/-- R119: `n` pairs latch exactly `n` values, in order, whatever the strobe was before the first. -/
def Obligations.PairsLatchOneValueEach : Prop :=
  ∀ (s : State) (vs : List (Bool × Pixel)), pinMapOk s.cfg = true → s.gpio.pinMode = .data →
    ∃ t, emitRun (vs.map fun x => encWord s.cfg x.1 x.2) s = .next t ∧
      t.panel.latched = s.panel.latched ++ vs.map (fun x => ⟨x.1, x.2⟩) ∧
      (vs ≠ [] → t.panel.strobeSeen = true)

/-- R118, for the four kinds of TransactionWord: the latch happens on a rising strobe and takes the marker and
the value of the word that raised it. The strobe level before must be known where the latch depends on it
(R272). -/
def Obligations.WordLatchesOnRisingStrobe : Prop :=
  ∀ (s : State) (i : Instr) (w : Word), encodeWord s.cfg i = some w → pinMapOk s.cfg = true →
    s.gpio.pinMode = .data → (s.panel.strobeKnown = true ∨ w.getLsbD s.cfg.strobePos = false) →
    ∃ t, exec i s = .next t ∧
      t.gpio.pinData = w ∧ t.panel.strobeSeen = w.getLsbD s.cfg.strobePos ∧ t.panel.strobeKnown = true ∧
      (s.panel.strobeSeen = false → w.getLsbD s.cfg.strobePos = true →
        t.panel.latched = s.panel.latched ++ [⟨w.getLsbD s.cfg.dcPos, unspread s.cfg w⟩]) ∧
      (s.panel.strobeSeen = true ∨ w.getLsbD s.cfg.strobePos = false → t.panel.latched = s.panel.latched) ∧
      t.trace = s.trace ++ [.write (RegMap.pinDataAddr s.cfg.regmap) .pinData w] ∧
      { t with gpio := { t.gpio with pinData := s.gpio.pinData }, panel := s.panel, trace := s.trace } = s

/-- R272 and R31 (the whole-word reading of both is the model's, notes/assumptions/9.md and 19.md): a word that raises a strobe
whose level holds no value is a fault; while the pins are in `Signal` mode a word reaches the register and
not the panel. -/
def Obligations.UnknownStrobeFaultsAndSignalModeHidesThePins : Prop :=
  ∀ (s : State) (i : Instr) (w : Word), encodeWord s.cfg i = some w → pinMapOk s.cfg = true →
    (s.gpio.pinMode = .data → s.panel.strobeKnown = false → w.getLsbD s.cfg.strobePos = true →
      exec i s = .fault .strobeUnspecified) ∧
    (s.gpio.pinMode = .signal → ∃ t, exec i s = .next t ∧ t.gpio.pinData = w ∧
      { t with gpio := { t.gpio with pinData := s.gpio.pinData }, trace := s.trace } = s)

/-- R273: a non-canonical word at `PINDATA` is a fault, whoever writes it; the encoder produces none. -/
def Obligations.NonCanonicalWordFaults : Prop :=
  (∀ (c : Config) (dc : Bool) (v : Pixel), pinMapOk c = true →
    canonical c (encWord c dc v).1 = true ∧ canonical c (encWord c dc v).2 = true) ∧
  (∀ (s : State) (w : Word) (rest : List Event), configProblem s.cfg = none → canonical s.cfg w = false →
    s.inbox = .word w :: rest → step s = .fault .nonCanonicalWord) ∧
  (∀ (s : State) (lo hi : Word), isPair s.cfg lo hi = true → s.gpio.pinMode = .data →
    canonical s.cfg lo = false → exec (.emitPair lo hi) s = .fault .nonCanonicalWord) ∧
  ∀ (s : State) (c : Nat) (ch : Channel) (w : Word), s.chans[c]? = some ch → ch.enable = true →
    ch.dmaPos < ch.len.toNat / 4 → s.gpio.pinMode = .data → s.tcon.valid = true →
    read32 s.cfg.endian s.txMem (ch.src.toNat + 4 * ch.dmaPos) = some w → canonical s.cfg w = false →
    exec (.dmaXfer c) s = .fault .nonCanonicalWord

/-! ### Frames (41_frame_ops) -/

/-- R130 and step 0 of R135 (that `ENC_FRAME` is taken step by step is notes/assumptions/8.md): into an idle buffer, with the
right geometry, the encode begins by writing the command pair at words 0 and 1 and clearing the mark. -/
def Obligations.EncodeFrameBegins : Prop :=
  ∀ (s : State) (k : Nat) (b : Buffer), s.irq.ctx = .process → s.producer.encoding = none →
    s.pix.bytes = 2 * nPix → k < nPool → s.pool.allocated = true → s.pool.bufs[k]? = some b →
    b.capacity = bufWords → s.pool.armed ≠ some k → s.pool.pendingNext ≠ some k →
    (∀ ch ∈ s.chans, ch.enable = true → ch.src.toNat ≠ b.physBase) →
    ∃ t, exec (.encFrame k) s = .next t ∧
      t.producer = { s.producer with encoding := some k, encIdx := 0 } ∧
      t.pool.bufs = s.pool.bufs.set k { b with encoded := false } ∧
      readTx t b 0 = some (encWord s.cfg false (s.cfg.cmdWritePixels.setWidth 16)).1 ∧
      readTx t b 1 = some (encWord s.cfg false (s.cfg.cmdWritePixels.setWidth 16)).2 ∧
      (∀ a, a < b.physBase ∨ b.physBase + 8 ≤ a → memRead t.txMem a = memRead s.txMem a) ∧
      t.ret = .void ∧
      { t with producer := s.producer, pool := { t.pool with bufs := s.pool.bufs }, txMem := s.txMem,
               ret := s.ret } = s

/-- R134: a source that is not exactly `NPIX` pixels, or a destination that is not exactly `CAP` words, is
GeometryMismatch, recorded and returned; nothing else changes. -/
def Obligations.GeometryMismatchWritesNothing : Prop :=
  ∀ (s : State) (k : Nat), s.irq.ctx = .process → s.producer.encoding = none → k < nPool →
    (s.pix.bytes ≠ 153600 →
      exec (.encFrame k) s = .next { s with
        err := some (.geometryMismatch (.bytes s.pix.bytes) (.bytes 153600))
        ret := .error (.geometryMismatch (.bytes s.pix.bytes) (.bytes 153600)) }) ∧
    (s.pix.bytes = 153600 → s.pool.allocated = true → ∀ b, s.pool.bufs[k]? = some b →
      b.capacity ≠ 153602 →
      exec (.encFrame k) s = .next { s with
        err := some (.geometryMismatch (.words b.capacity) (.words 153602))
        ret := .error (.geometryMismatch (.words b.capacity) (.words 153602)) })

/-- R136, R261: writing an armed or a published buffer is a fault, for the operation and for every step of it (that an
encode goes on step by step is notes/assumptions/8.md, DEDUCED). So is writing a buffer that an enabled channel streams
while it is neither (the model's reading of "armed" in R14: notes/assumptions/21.md). -/
def Obligations.ArmedOrPublishedBufferIsNeverWritten : Prop :=
  ∀ (s : State) (k : Nat) (b : Buffer), k < nPool → s.pool.allocated = true → s.pool.bufs[k]? = some b →
    (s.pool.armed = some k ∨ s.pool.pendingNext = some k ∨
      ∃ ch ∈ s.chans, ch.enable = true ∧ ch.src.toNat = b.physBase) →
    (s.irq.ctx = .process → s.producer.encoding = none → s.pix.bytes = 2 * nPix → b.capacity = bufWords →
      exec (.encFrame k) s = .fault .bufferInUse) ∧
    (s.producer.encoding = some k → encodeStep s = .fault .bufferInUse)

/-- Steps 1 to `NPIX` of R135, with R138 (the step-by-step reading is notes/assumptions/8.md): step `i+1` reads `PIX[i]` as
it is then, writes its pair at words `2+2*i` and `3+2*i` and advances `enc_idx`; the last one sets the
mark and ends the operation. A pixel that holds no value is a fault (R272). -/
def Obligations.EncodeStepWritesOnePixel : Prop :=
  ∀ (s : State) (k : Nat) (b : Buffer), s.producer.encoding = some k → s.producer.encIdx < nPix → k < nPool →
    s.pool.allocated = true → s.pool.bufs[k]? = some b → s.pool.armed ≠ some k → s.pool.pendingNext ≠ some k →
    (∀ ch ∈ s.chans, ch.enable = true → ch.src.toNat ≠ b.physBase) →
    (readPixel s s.producer.encIdx = none → encodeStep s = .fault .pixelUnwritten) ∧
    ∀ p, readPixel s s.producer.encIdx = some p →
      ∃ t, encodeStep s = .next t ∧
        (s.producer.encIdx + 1 < nPix → t.producer = { s.producer with encIdx := s.producer.encIdx + 1 } ∧
          t.pool.bufs = s.pool.bufs.set k { b with encoded := false }) ∧
        (s.producer.encIdx + 1 = nPix → t.producer = { s.producer with encoding := none, encIdx := nPix } ∧
          t.pool.bufs = s.pool.bufs.set k { b with encoded := true }) ∧
        readTx t b (2 + 2 * s.producer.encIdx) = some (encWord s.cfg true p).1 ∧
        readTx t b (3 + 2 * s.producer.encIdx) = some (encWord s.cfg true p).2 ∧
        (∀ a, a < b.physBase + 4 * (2 + 2 * s.producer.encIdx) ∨ b.physBase + 4 * (4 + 2 * s.producer.encIdx) ≤ a →
          memRead t.txMem a = memRead s.txMem a) ∧
        { t with producer := s.producer, pool := { t.pool with bufs := s.pool.bufs }, txMem := s.txMem } = s

/-- R131, R132, R133 (the step-by-step reading that `encodeWhole` runs is notes/assumptions/8.md): a whole encode of the
pixels `P` writes exactly the `2 + 2*W*H` words of their frame, in their places, and no other byte; the buffer is then
encoded. -/
def Obligations.WholeFrameIsEncoded : Prop :=
  ∀ (s : State) (k : Nat) (b : Buffer) (P : Nat → Pixel), s.irq.ctx = .process → s.producer.encoding = none →
    s.pix.bytes = 2 * nPix → k < nPool → s.pool.allocated = true → s.pool.bufs[k]? = some b →
    b.capacity = bufWords → s.pool.armed ≠ some k → s.pool.pendingNext ≠ some k →
    (∀ ch ∈ s.chans, ch.enable = true → ch.src.toNat ≠ b.physBase) →
    (∀ i < nPix, readPixel s i = some (P i)) →
    ∃ t, encodeWhole k s = .next t ∧
      bufWords = 2 + 2 * panelW * panelH ∧ holdsFrame t b P bufWords ∧
      (∀ a, ¬ inBuffer b a → memRead t.txMem a = memRead s.txMem a) ∧
      t.pool.bufs = s.pool.bufs.set k { b with encoded := true } ∧
      t.producer = { s.producer with encoding := none, encIdx := nPix } ∧ t.ret = .void ∧
      { t with producer := s.producer, pool := { t.pool with bufs := s.pool.bufs }, txMem := s.txMem,
               ret := s.ret } = s

/-- R137 (an encode runs step by step by notes/assumptions/8.md): two encodes with equal pixels and equal configuration
give equal words and equal bytes, whatever the buffers are and held, and whatever else the two states hold; the words
are those of the function of the pixels. -/
def Obligations.EncodingIsDeterministic : Prop :=
  ∀ (s s' t t' : State) (k k' : Nat) (b b' : Buffer), s.cfg = s'.cfg →
    (∀ i < nPix, readPixel s i = readPixel s' i) →
    s.pool.bufs[k]? = some b → s'.pool.bufs[k']? = some b' →
    encodeWhole k s = .next t → encodeWhole k' s' = .next t' →
    (∀ j < bufWords, readTx t b j = readTx t' b' j) ∧
    (∀ x < frameBytes, memRead t.txMem (b.physBase + x) = memRead t'.txMem (b'.physBase + x)) ∧
    ∃ P : Nat → Pixel, (∀ i < nPix, readPixel s i = some (P i)) ∧
      (readTx t b 0, readTx t b 1) =
        (some (encWord s.cfg false (s.cfg.cmdWritePixels.setWidth 16)).1,
          some (encWord s.cfg false (s.cfg.cmdWritePixels.setWidth 16)).2) ∧
      ∀ i < nPix, (readTx t b (2 + 2 * i), readTx t b (3 + 2 * i)) =
        (some (encWord s.cfg true (P i)).1, some (encWord s.cfg true (P i)).2)

/-! ### Bring-up (42_timing_and_bringup) -/

/-- R151, in a pipeline with no error recorded (R161): the reset lines are released, then the clocks
enabled; and no operation but `TEARDOWN` turns a clock off, or asserts a reset line. -/
def Obligations.ClocksEnabled : Prop :=
  (∀ (s : State), s.irq.ctx = .process → s.bringup = .unconfigured → s.err = none →
    ∃ t, exec .brgClocks s = .next t ∧
      t.crc = ⟨true, true, false, false⟩ ∧ t.bringup = .clocksEnabled ∧ t.ret = .void ∧
      (∃ as, t.trace = s.trace ++ as ∧ fieldsWritten as = [.rstDma, .rstTcon, .clkDma, .clkTcon]) ∧
      { t with crc := s.crc, bringup := s.bringup, trace := s.trace, ret := s.ret } = s) ∧
  ∀ (s t : State) (i : Instr), exec i s = .next t → t.crc ≠ s.crc →
    (i = .brgClocks ∧ t.crc = ⟨true, true, false, false⟩) ∨
      (i = .teardown ∧ t.crc = { s.crc with clkDma := false, clkTcon := false })

/-- R152, in a pipeline with no error recorded (R161): every pin the pin map names, and every pin `BASE`
drives, is in bus drive mode with the configured strength and pull; every other pin is as it was. That the pins `BASE`
drives are those whose bit of `BASE` is 1, and that a pin whose bit is 0 is therefore among the others, is the model's
reading of R152 (notes/assumptions/20.md, DEDUCED). -/
def Obligations.PinsConfigured : Prop :=
  ∀ (s : State), s.irq.ctx = .process → s.bringup = .clocksEnabled → s.err = none →
    ∃ t, exec .brgPins s = .next t ∧
      t.gpio.pinMode = .data ∧ t.bringup = .pinsConfigured ∧ t.ret = .void ∧
      t.gpio.pins.length = s.gpio.pins.length ∧
      (∀ p pin, s.gpio.pins[p]? = some pin →
        t.gpio.pins[p]? = some (if p < 32 ∧ ((s.cfg.aLsb ≤ p ∧ p < s.cfg.aLsb + 8) ∨
            (s.cfg.bLsb ≤ p ∧ p < s.cfg.bLsb + 8) ∨ p = s.cfg.strobePos ∨ p = s.cfg.dcPos ∨
            s.cfg.base.getLsbD p = true)
          then ⟨s.cfg.regmap.busFunction, s.cfg.regmap.driveStrength, s.cfg.regmap.pull⟩ else pin)) ∧
      { t with gpio := { t.gpio with pinMode := s.gpio.pinMode, pins := s.gpio.pins }, bringup := s.bringup,
               trace := s.trace, ret := s.ret } = s

/-- R154, in a pipeline with no error recorded (R161): a well-formed `TIMING` is stored whole; an active size that
is not the panel's is GeometryMismatch before any register write; a block that is not clocked or is in reset is a
fault; a configuration whose `TIMING` has a divisor of zero is refused in every step (R153). That `TIMING` is read
from the configuration is notes/assumptions/25.md; the marks that its fields then hold a value are 9.md. -/
def Obligations.TimingConfigured : Prop :=
  (∀ (s : State) (o : TimingOperand), s.irq.ctx = .process → s.bringup = .pinsConfigured → s.err = none →
    (s.crc.clkTcon = true → s.crc.rstTcon = false → s.cfg.timing.activeW = 320 → s.cfg.timing.activeH = 240 →
      1 ≤ s.cfg.timing.clkDiv →
      ∃ t, exec (.tconCfg o) s = .next t ∧
        t.tcon = ⟨s.cfg.timing, .all, true⟩ ∧ t.bringup = .timingConfigured ∧ t.ret = .void ∧
        { t with tcon := s.tcon, bringup := s.bringup, trace := s.trace, ret := s.ret } = s) ∧
    (s.crc.clkTcon = true → s.crc.rstTcon = false → (s.cfg.timing.activeW ≠ 320 ∨ s.cfg.timing.activeH ≠ 240) →
      exec (.tconCfg o) s = .next { s with
        err := some (.geometryMismatch (.active s.cfg.timing.activeW s.cfg.timing.activeH) (.active 320 240))
        ret := .error (.geometryMismatch (.active s.cfg.timing.activeW s.cfg.timing.activeH) (.active 320 240)) }) ∧
    ((s.crc.clkTcon = false ∨ s.crc.rstTcon = true) → ∃ r, exec (.tconCfg o) s = .fault r)) ∧
  ∀ (s : State), s.cfg.timing.clkDiv = 0 → ∃ r, step s = .refused r

/-- R155, in a pipeline with no error recorded (R161): each item of the configuration's `PANEL_INIT` is emitted as one
pair, in order, the last of which stays on the pins; an empty list makes the transition with no pin write. -/
def Obligations.PanelInitIsEmitted : Prop :=
  ∀ (s : State) (o : PanelOperand), s.irq.ctx = .process → s.bringup = .timingConfigured → s.err = none →
    s.tcon.valid = true → s.gpio.pinMode = .data → pinMapOk s.cfg = true →
    ∃ t, exec (.brgInit o) s = .next t ∧
      t.bringup = .streamingCommand ∧ t.ret = .void ∧
      t.panel.latched = s.panel.latched ++ s.cfg.panelInit.map (fun it => ⟨it.dc, it.byte.setWidth 16⟩) ∧
      t.trace = s.trace ++ s.cfg.panelInit.flatMap (fun it =>
        [.write (RegMap.pinDataAddr s.cfg.regmap) .pinData (encWord s.cfg it.dc (it.byte.setWidth 16)).1,
          .write (RegMap.pinDataAddr s.cfg.regmap) .pinData (encWord s.cfg it.dc (it.byte.setWidth 16)).2]) ∧
      (∀ it, s.cfg.panelInit.getLast? = some it → t.panel.strobeSeen = true ∧ t.panel.strobeKnown = true ∧
        t.gpio.pinData = (encWord s.cfg it.dc (it.byte.setWidth 16)).2) ∧
      (s.cfg.panelInit = [] → t.gpio = s.gpio ∧ t.panel = s.panel) ∧
      { t with gpio := { t.gpio with pinData := s.gpio.pinData }, panel := s.panel, bringup := s.bringup,
               trace := s.trace, ret := s.ret } = s

/-- R156, in a pipeline with no error recorded (R161): the first arm configures and starts the channel and
marks the buffer; its four configuration writes are between `mask` and `unmask` exactly when the hardware is not
atomic (R219); a missing pool, an unencoded buffer and a detached handler are faults, whatever the channel: that they
come before the refusal of a channel outside 0..NCH-1, for which the spec gives no outcome, is the model's choice
(notes/assumptions/24.md, DESIGN CHOICE). The order of the four writes among themselves is the model's (R187 gives none:
notes/assumptions/6.md). -/
def Obligations.FirstArm : Prop :=
  ∀ (s : State) (c k : Nat), s.irq.ctx = .process → s.bringup = .streamingCommand → s.err = none → k < nPool →
    (s.pool.allocated = false → exec (.brgArm c k) s = .fault .poolNotAllocated) ∧
    ∀ b, s.pool.allocated = true → s.pool.bufs[k]? = some b →
      (b.encoded = false → exec (.brgArm c k) s = .fault .bufferNotEncoded) ∧
      (b.encoded = true → s.irq.attached = false → exec (.brgArm c k) s = .fault .handlerNotAttached) ∧
      ∀ ch, b.encoded = true → s.irq.attached = true → s.chans[c]? = some ch → ch.enable = false →
        ch.irqPending = false → s.producer.encoding ≠ some k → s.gpio.pinMode = .data → s.tcon.valid = true →
        s.crc.clkDma = true →
        ∃ t, exec (.brgArm c k) s = .next t ∧
          t.chans = s.chans.set c { ch with
            src := BitVec.ofNat 32 b.physBase
            dst := BitVec.ofNat 32 (RegMap.pinDataAddr s.cfg.regmap)
            len := 614408
            ctrl := s.cfg.ctrlWord
            enable := true
            dmaPos := 0
            configured := true } ∧
          t.pool.armed = some k ∧ t.bringup = .armed ∧ t.ret = .void ∧
          (s.cfg.hwAtomicRegUpdate = true → t.irq = s.irq ∧ ∃ as, t.trace = s.trace ++ as ++ [.armedSet (some k)] ∧
            fieldsWritten as = [.src c, .dst c, .len c, .ctrl c, .enable c] ∧ .mask ∉ as ∧ .unmask ∉ as) ∧
          (s.cfg.hwAtomicRegUpdate = false → t.irq = { s.irq with masked := false } ∧
            ∃ as bs, t.trace = s.trace ++ .mask :: as ++ .unmask :: bs ++ [.armedSet (some k)] ∧
              fieldsWritten as = [.src c, .dst c, .len c, .ctrl c] ∧ fieldsWritten bs = [.enable c]) ∧
          { t with chans := s.chans, pool := { t.pool with armed := s.pool.armed }, bringup := s.bringup,
                   irq := { t.irq with masked := s.irq.masked }, trace := s.trace, ret := s.ret } = s

/-- R150, R159: a bring-up operation in a state other than its own is refused; of all instructions only the operation of
its edge moves the bring-up state along the chain, and only `TEARDOWN` moves it back. -/
def Obligations.BringupOrderIsEnforced : Prop :=
  (∀ (s : State) (i : Instr) (b b' : Bringup), bringupEdge i = some (b, b') → s.bringup ≠ b →
    (∃ r, exec i s = .refused r) ∧ (s.irq.ctx = .process → exec i s = .refused .wrongBringupState)) ∧
  ∀ (s t : State) (i : Instr), exec i s = .next t → t.bringup ≠ s.bringup →
    (i = .teardown ∧ t.bringup = .unconfigured) ∨ bringupEdge i = some (s.bringup, t.bringup)

/-- R161, R158, R250 (that every later transition is refused is notes/assumptions/14.md, and that `TEARDOWN` clears the
error record 23.md, both DEDUCED): after an error the bring-up machine does not advance, and `TEARDOWN` gets it back. -/
def Obligations.ErrorStopsBringup : Prop :=
  ∀ (s : State), s.irq.ctx = .process → s.err.isSome = true →
    (∀ (i : Instr) (b b' : Bringup), bringupEdge i = some (b, b') → s.bringup = b →
      exec i s = .refused .bringupAborted) ∧
    ∃ t, exec .teardown s = .next t ∧ t.err = none ∧ t.bringup = .unconfigured

/-- R158 (with R250 for what stays): teardown completes from every state of process context, stops, detaches,
frees and turns the clocks off, in that order; the pins, the reset lines and the pending completions stay. That it clears
the error record, the `lost` marks and the waiting notifications is notes/assumptions/23.md and 33.md; that the `tcon`
fields hold no value afterwards is a mark (9.md); that no handler runs between its parts is 39.md, and that it can be
begun by the read half of its first `DMA_STOP` (RegistersAreReadModifyWritten) 38.md. -/
def Obligations.TeardownReleasesEverything : Prop :=
  ∀ (s : State), s.irq.ctx = .process →
    ∃ t, exec .teardown s = .next t ∧
      t.chans.length = s.chans.length ∧
      (∀ (c : Nat) (ch : Channel), s.chans[c]? = some ch →
        ∃ ch', t.chans[c]? = some ch' ∧ ch'.enable = false ∧ { ch' with enable := ch.enable, lost := ch.lost } = ch) ∧
      t.producer = { s.producer with notes := [], thenPublish := none } ∧
      t.irq = { s.irq with attached := false } ∧ t.pool.armed = none ∧ t.pool.pendingNext = none ∧
      t.pool.allocated = false ∧ (s.pool.allocated = true → t.pool.bufs = [] ∧ t.txMem = []) ∧
      t.crc = { s.crc with clkDma := false, clkTcon := false } ∧
      t.tcon = { s.tcon with known := .none, valid := false } ∧
      t.bringup = .unconfigured ∧ t.err = none ∧ t.ret = .void ∧
      (∃ as, t.trace = s.trace ++ as ∧
        fieldsWritten as = (List.range s.chans.length).map RegField.enable ++ [.clkDma, .clkTcon]) ∧
      (s.pool.allocated = false → t.pool.bufs = s.pool.bufs ∧ t.txMem = s.txMem) ∧
      { t with producer := s.producer, chans := s.chans, irq := s.irq, pool := s.pool, txMem := s.txMem,
               crc := s.crc, tcon := s.tcon, bringup := s.bringup, err := s.err, trace := s.trace, ret := s.ret } = s

/-- R163: only `TCON_CFG`, which runs once in a pipeline lifetime, writes the timing configuration, and only
`TEARDOWN` makes it invalid. -/
def Obligations.TimingIsConstant : Prop :=
  ∀ (s t : State) (i : Instr), exec i s = .next t → t.tcon ≠ s.tcon →
    (i = .teardown ∧ t.tcon.valid = false ∧ t.tcon.fields = s.tcon.fields) ∨
    ((∃ o, i = .tconCfg o) ∧ s.bringup = .pinsConfigured ∧ t.tcon.valid = true ∧ t.tcon.fields = s.cfg.timing)

/-- R23, R24, R226, R35: who writes the two slots and the handler's registration. `armed` is set by the first arm and
the handler and cleared by teardown; `pending_next` is set by the publish, and cleared by the handler and by
teardown; `irq_attached` is set by the attachment, an event of its own (notes/assumptions/32.md), and cleared by
teardown. -/
def Obligations.SlotAndRegistrationWriters : Prop :=
  (∀ (s t : State) (i : Instr), exec i s = .next t →
    (t.pool.armed ≠ s.pool.armed →
      (∃ c k, i = .brgArm c k ∧ s.bringup = .streamingCommand ∧ t.pool.armed = some k) ∨
      (∃ c, i = .irqFrame c ∧ t.pool.armed = s.pool.pendingNext) ∨ (i = .teardown ∧ t.pool.armed = none)) ∧
    (t.pool.pendingNext ≠ s.pool.pendingNext →
      (∃ k, i = .publishNext k ∧ t.pool.pendingNext = some k) ∨
      (∃ c, i = .irqFrame c ∧ t.pool.pendingNext = none) ∨ (i = .teardown ∧ t.pool.pendingNext = none)) ∧
    (t.irq.attached ≠ s.irq.attached → i = .teardown ∧ t.irq.attached = false)) ∧
  (∀ (s : State) (rest : List Event), configProblem s.cfg = none → s.inbox = .attach :: rest →
    producerBusy s = false →
    step s = .next { s with irq := { s.irq with attached := true }, inbox := rest }) ∧
  ∀ (s t : State), step s = .next t → s.irq.attached = false → t.irq.attached = true →
    ∃ rest, s.inbox = .attach :: rest

/-! ### The pool (43_pool_and_dma, part 1) -/

/-- R180, R181, R51 (the answers of the allocator as data, and the reach of a 32-bit source register, are the model's:
notes/assumptions/12.md and 11.md): eight successes give eight fresh buffers whose words hold no value; eight answers
of which one is misaligned or out of reach, or two overlap, are refused; at the first failure nothing stays allocated
and AllocationFailure names it. -/
def Obligations.PoolAllocationIsAllOrNothing : Prop :=
  ∀ (s : State), s.irq.ctx = .process →
    (s.pool.allocated = true → exec .poolAlloc s = .fault .poolAllocated) ∧
    (s.pool.allocated = false →
      (∀ l p : Nat → Nat, (∀ k < nPool, s.allocDraws[k]? = some (some (l k, p k))) →
        ((∀ k < nPool, l k % 4 = 0 ∧ p k % 4 = 0 ∧ p k + 614408 ≤ 4294967296) →
          (∀ i j, i < j → j < nPool → (p i + 614408 ≤ p j ∨ p j + 614408 ≤ p i) ∧
            (l i + 614408 ≤ l j ∨ l j + 614408 ≤ l i)) →
          ∃ t, exec .poolAlloc s = .next t ∧
            t.pool = { s.pool with
              allocated := true
              bufs := (List.range nPool).map fun k => ⟨l k, p k, bufWords, false⟩ } ∧
            (∀ a, memRead t.txMem a = none) ∧ t.ret = .void ∧
            { t with pool := s.pool, txMem := s.txMem, ret := s.ret } = s) ∧
        ((∃ k < nPool, l k % 4 ≠ 0 ∨ p k % 4 ≠ 0 ∨ 4294967296 < p k + 614408) ∨
            (∃ i j, i < j ∧ j < nPool ∧ ((p i < p j + 614408 ∧ p j < p i + 614408) ∨
              (l i < l j + 614408 ∧ l j < l i + 614408))) →
          ∃ r, exec .poolAlloc s = .refused r)) ∧
      (∀ k < nPool, (∀ j < k, ∃ x, s.allocDraws[j]? = some (some x)) → s.allocDraws[k]? = some none →
        ∃ t, exec .poolAlloc s = .next t ∧
          t.pool = { s.pool with bufs := [] } ∧ t.txMem = [] ∧ t.err = some (.allocationFailure k) ∧
          t.ret = .error (.allocationFailure k) ∧
          { t with pool := s.pool, txMem := s.txMem, err := s.err, ret := s.ret } = s))

/-- R182: `POOL_BUF` returns the two addresses and the capacity; an index outside `0..7` is refused. -/
def Obligations.PoolBufferIsNamed : Prop :=
  ∀ (s : State) (i : Nat),
    (∀ b, i < 8 → s.pool.allocated = true → s.pool.bufs[i]? = some b → b.capacity = 153602 →
      exec (.poolBuf i) s = .next { s with ret := .buffer b.logicalBase b.physBase 153602 }) ∧
    (i < 8 → s.pool.allocated = false → exec (.poolBuf i) s = .fault .poolNotAllocated) ∧
    (8 ≤ i → exec (.poolBuf i) s = .refused .noSuchBuffer)

/-- R185, R266: freeing releases every buffer; while a channel runs, a buffer is armed or the handler is attached it is
a fault, whether or not a pool is allocated (notes/assumptions/22.md); otherwise it does nothing on an unallocated
pool. -/
def Obligations.PoolFreeReleasesAll : Prop :=
  ∀ (s : State), s.irq.ctx = .process →
    (s.pool.armed = none → (∀ ch ∈ s.chans, ch.enable = false) → s.irq.attached = false →
      (s.pool.allocated = false → exec .poolFree s = .next { s with ret := .void }) ∧
      (s.pool.allocated = true →
        ∃ t, exec .poolFree s = .next t ∧
          t.pool = { s.pool with allocated := false, bufs := [] } ∧ (∀ a, memRead t.txMem a = none) ∧ t.ret = .void ∧
          { t with pool := s.pool, txMem := s.txMem, ret := s.ret } = s)) ∧
    ((s.pool.armed ≠ none ∨ (∃ ch ∈ s.chans, ch.enable = true) ∨ s.irq.attached = true) →
      exec .poolFree s = .fault .freeWhileInUse)

/-- R197, R198: publishing writes the one slot, over whatever it held; an unencoded and the armed buffer are faults.
The query answers whether the slot holds a buffer. (That a publish runs before the steady state too, where R251 gives no
outcome, is notes/assumptions/41.md, DESIGN CHOICE; who issues the query is 40.md.) -/
def Obligations.PublishWritesTheSlot : Prop :=
  (∀ (s : State) (k : Nat) (b : Buffer), s.irq.ctx = .process → k < nPool → s.pool.allocated = true →
    s.pool.bufs[k]? = some b →
    (b.encoded = true → s.pool.armed ≠ some k →
      ∃ t, exec (.publishNext k) s = .next t ∧ t.pool.pendingNext = some k ∧ t.ret = .void ∧
        { t with pool := { t.pool with pendingNext := s.pool.pendingNext }, trace := s.trace, ret := s.ret } = s) ∧
    (b.encoded = false → ∃ r, exec (.publishNext k) s = .fault r) ∧
    (s.pool.armed = some k → ∃ r, exec (.publishNext k) s = .fault r)) ∧
  ∀ (s : State), exec .queryInflight s = .next { s with ret := .flag (decide (s.pool.pendingNext ≠ none)) }

/-- R199: in every state at least six of the eight buffers are neither armed nor published: those the producer may
fill next. -/
def Obligations.SixBuffersAreIdle : Prop :=
  ∀ (s : State), 6 ≤ (fillCandidates s).length ∧
    ∀ k, k ∈ fillCandidates s ↔ k < nPool ∧ s.pool.armed ≠ some k ∧ s.pool.pendingNext ≠ some k

/-! ### The DMA channels (43_pool_and_dma, part 2) -/

/-- R187, R196: a configuration, in the handler's context, writes the four fields of a stopped channel and nothing
else of it; the destination and the control word are the fixed ones. A running channel, an unencoded buffer and a
buffer being encoded are faults; and in process context, where only `BRG_ARM` may write a channel's source (R226,
R267; the fault is notes/assumptions/16.md), every configuration is. The order of the four writes is the model's
(R187 gives none: notes/assumptions/6.md). -/
def Obligations.ConfigureWritesTheChannel : Prop :=
  ∀ (s : State) (c k : Nat) (ch : Channel) (b : Buffer), s.chans[c]? = some ch → k < nPool →
    s.pool.allocated = true → s.pool.bufs[k]? = some b →
    (ch.enable = false → b.encoded = true → s.producer.encoding ≠ some k →
      (s.irq.ctx = .interrupt → ∃ t, exec (.dmaConfigure c k) s = .next t ∧
        t.chans = s.chans.set c { ch with
          src := BitVec.ofNat 32 b.physBase
          dst := BitVec.ofNat 32 (RegMap.pinDataAddr s.cfg.regmap)
          len := 614408
          ctrl := s.cfg.ctrlWord
          configured := true } ∧
        (∃ as, t.trace = s.trace ++ as ∧ fieldsWritten as = [.src c, .dst c, .len c, .ctrl c] ∧ as.length = 8) ∧
        t.ret = .void ∧ { t with chans := s.chans, trace := s.trace, ret := s.ret } = s) ∧
      (s.irq.ctx = .process → exec (.dmaConfigure c k) s = .fault .swapOutsideHandler)) ∧
    (ch.enable = true → exec (.dmaConfigure c k) s = .fault (.resourceBusy c)) ∧
    (b.encoded = false → ∃ r, exec (.dmaConfigure c k) s = .fault r) ∧
    (s.producer.encoding = some k → ∃ r, exec (.dmaConfigure c k) s = .fault r)

/-- R188, R270: starting a running channel changes nothing; a stopped one starts from word 0, on a valid path;
between a completion and the re-arm a process-context start is a fault, and so is a start before the path is
valid (R263) and of a channel never configured. -/
def Obligations.StartIsIdempotent : Prop :=
  ∀ (s : State) (c : Nat) (ch : Channel), s.chans[c]? = some ch →
    (ch.enable = true → exec (.dmaStart c) s = .next { s with ret := .void }) ∧
    (ch.enable = false → s.gpio.pinMode = .data → s.tcon.valid = true → s.crc.clkDma = true → ch.configured = true →
      (ch.irqPending = false ∨ s.irq.ctx = .interrupt) →
      ∃ t, exec (.dmaStart c) s = .next t ∧ t.chans = s.chans.set c { ch with enable := true, dmaPos := 0 } ∧
        (∃ as, t.trace = s.trace ++ as ∧ fieldsWritten as = [.enable c]) ∧ t.ret = .void ∧
        { t with chans := s.chans, trace := s.trace, ret := s.ret } = s) ∧
    (ch.enable = false → ch.irqPending = true → s.irq.ctx = .process → ∃ r, exec (.dmaStart c) s = .fault r) ∧
    (ch.enable = false → (s.gpio.pinMode = .signal ∨ s.tcon.valid = false ∨ s.crc.clkDma = false) →
      ∃ r, exec (.dmaStart c) s = .fault r) ∧
    (ch.enable = false → ch.configured = false → ∃ r, exec (.dmaStart c) s = .fault r)

/-- R189, R190, R226: stopping clears the enable bit alone, acknowledging the completion status alone; both change
nothing on a channel where it is clear already. An acknowledge of its own completes in every state, R190 giving it no
condition; that R226's "in `BRG_ARM` only" is no check of the process context is notes/assumptions/16.md (DEDUCED). R22, R218: over all instructions, only the engine's step that moves
the last word sets a completion status, and only an acknowledge (its own, the re-arm's or the handler's) clears it. The
two halves of a stop or an acknowledge as steps of their own are in RegistersAreReadModifyWritten. -/
def Obligations.StopAndAcknowledge : Prop :=
  (∀ (s : State) (c : Nat) (ch : Channel), s.chans[c]? = some ch →
    (s.irq.ctx = .process →
      ∃ t, exec (.dmaStop c) s = .next t ∧ t.chans = s.chans.set c { ch with enable := false } ∧
        (ch.enable = false → t.chans = s.chans) ∧
        (∃ as, t.trace = s.trace ++ as ∧ fieldsWritten as = [.enable c]) ∧ t.ret = .void ∧
        { t with chans := s.chans, trace := s.trace, ret := s.ret } = s) ∧
    ∃ t, exec (.dmaAck c) s = .next t ∧ t.chans = s.chans.set c { ch with irqPending := false } ∧
      (ch.irqPending = false → t.chans = s.chans) ∧
      (∃ as, t.trace = s.trace ++ as ∧ fieldsWritten as = [.status c]) ∧ t.ret = .void ∧
      { t with chans := s.chans, trace := s.trace, ret := s.ret } = s) ∧
  ∀ (s t : State) (i : Instr) (c : Nat) (ch ch' : Channel), exec i s = .next t → s.chans[c]? = some ch →
    t.chans[c]? = some ch' →
    (ch.irqPending = false → ch'.irqPending = true →
      i = .dmaXfer c ∧ ch.enable = true ∧ ch.dmaPos + 1 = ch.len.toNat / 4) ∧
    (ch.irqPending = true → ch'.irqPending = false → i = .dmaAck c ∨ (∃ k, i = .dmaRearm c k) ∨ i = .irqFrame c)

/-- R191: a re-arm acknowledges, then configures, then starts; the register writes come in that order. The order of
the four configuration writes among themselves is the model's (R187 gives none: notes/assumptions/6.md). It runs in
the handler's context; issued in process context, where only `BRG_ARM` may write a channel's source (R226, R267), it
is a fault (notes/assumptions/16.md). -/
def Obligations.RearmAcknowledgesFirst : Prop :=
  ∀ (s : State) (c k : Nat) (ch : Channel) (b : Buffer), s.chans[c]? = some ch → k < nPool →
    s.pool.allocated = true → s.pool.bufs[k]? = some b → ch.enable = false → b.encoded = true →
    s.producer.encoding ≠ some k → s.gpio.pinMode = .data → s.tcon.valid = true → s.crc.clkDma = true →
    (s.irq.ctx = .interrupt → ∃ t, exec (.dmaRearm c k) s = .next t ∧
      t.chans = s.chans.set c { ch with
        src := BitVec.ofNat 32 b.physBase
        dst := BitVec.ofNat 32 (RegMap.pinDataAddr s.cfg.regmap)
        len := 614408
        ctrl := s.cfg.ctrlWord
        enable := true
        irqPending := false
        dmaPos := 0
        configured := true } ∧
      (∃ as, t.trace = s.trace ++ as ∧
        fieldsWritten as = [.status c, .src c, .dst c, .len c, .ctrl c, .enable c]) ∧
      t.ret = .void ∧ { t with chans := s.chans, trace := s.trace, ret := s.ret } = s) ∧
    (s.irq.ctx = .process → exec (.dmaRearm c k) s = .fault .swapOutsideHandler)

/-- R192: one step of the engine moves one word of the buffer to `PINDATA` and advances the position; with no
word to move it has no step, and a word that holds no value is a fault. The preconditions are those of R252,
R162 and R272. -/
def Obligations.EngineMovesOneWord : Prop :=
  ∀ (s : State) (c : Nat) (ch : Channel), s.chans[c]? = some ch →
    (ch.enable = false ∨ ch.len.toNat / 4 ≤ ch.dmaPos → ∃ r, exec (.dmaXfer c) s = .fault r) ∧
    (ch.enable = true → ch.dmaPos < ch.len.toNat / 4 → s.gpio.pinMode = .data → s.tcon.valid = true →
      (read32 s.cfg.endian s.txMem (ch.src.toNat + 4 * ch.dmaPos) = none → exec (.dmaXfer c) s = .fault .wordUnwritten) ∧
      ∀ w, read32 s.cfg.endian s.txMem (ch.src.toNat + 4 * ch.dmaPos) = some w → canonical s.cfg w = true →
        (s.panel.strobeKnown = true ∨ w.getLsbD s.cfg.strobePos = false) →
        ∃ t ch', exec (.dmaXfer c) s = .next t ∧ t.gpio.pinData = w ∧ t.chans = s.chans.set c ch' ∧
          ch'.dmaPos = ch.dmaPos + 1 ∧
          (ch.dmaPos + 1 < ch.len.toNat / 4 → ch' = { ch with dmaPos := ch.dmaPos + 1 }) ∧
          t.panel.strobeSeen = w.getLsbD s.cfg.strobePos ∧
          (s.panel.strobeSeen = false → w.getLsbD s.cfg.strobePos = true →
            t.panel.latched = s.panel.latched ++ [⟨w.getLsbD s.cfg.dcPos, unspread s.cfg w⟩]) ∧
          (s.panel.strobeSeen = true ∨ w.getLsbD s.cfg.strobePos = false → t.panel.latched = s.panel.latched) ∧
          { t with gpio := { t.gpio with pinData := s.gpio.pinData }, panel := s.panel, chans := s.chans,
                   trace := s.trace } = s)

/-- R193: the step that moves the last word disables the channel and sets its completion; a completion that finds
the previous one unacknowledged signals nothing new. That this marks the channel `lost`, and that its handler is then
the stop `interruptLost`, are the model's form of R213 (notes/assumptions/17.md and 15.md). -/
def Obligations.LastWordCompletes : Prop :=
  ∀ (s : State) (c : Nat) (ch : Channel) (w : Word), s.chans[c]? = some ch → ch.enable = true →
    ch.dmaPos + 1 = ch.len.toNat / 4 → s.gpio.pinMode = .data → s.tcon.valid = true →
    read32 s.cfg.endian s.txMem (ch.src.toNat + 4 * ch.dmaPos) = some w → canonical s.cfg w = true →
    (s.panel.strobeKnown = true ∨ w.getLsbD s.cfg.strobePos = false) →
    ∃ t, exec (.dmaXfer c) s = .next t ∧ t.gpio.pinData = w ∧ lineAsserted t = true ∧
      (ch.irqPending = false → t.chans = s.chans.set c { ch with
        dmaPos := ch.dmaPos + 1
        enable := false
        irqPending := true }) ∧
      (ch.irqPending = true → t.chans = s.chans.set c { ch with
          dmaPos := ch.dmaPos + 1
          enable := false
          lost := true } ∧
        (s.irq.ctx = .process → exec (.irqFrame c) t = .fault (.interruptLost c)))

/-! ### The interrupt (60_exceptions) -/

/-- R222, with R221 and R224 for entry and return: the handler acknowledges first, reads and clears
`pending_next`, arms the published buffer or the same one again, and re-arms the channel; it returns to process
context. The order of the four configuration writes among themselves is the model's (R187 gives none:
notes/assumptions/6.md), and so is the handler as one step (notes/assumptions/18.md). -/
def Obligations.FrameCompletionHandler : Prop :=
  ∀ (s : State) (c m k : Nat) (ch : Channel) (b : Buffer), s.irq.ctx = .process → s.irq.attached = true →
    s.irq.masked = false → s.chans[c]? = some ch → ch.irqPending = true → ch.lost = false → ch.enable = false →
    s.pool.armed = some m → k = s.pool.pendingNext.getD m → k < nPool → s.pool.allocated = true →
    s.pool.bufs[k]? = some b → b.encoded = true → s.producer.encoding ≠ some k → s.gpio.pinMode = .data →
    s.tcon.valid = true → s.crc.clkDma = true →
    ∃ t, exec (.irqFrame c) s = .next t ∧
      t.chans = s.chans.set c { ch with
        src := BitVec.ofNat 32 b.physBase
        dst := BitVec.ofNat 32 (RegMap.pinDataAddr s.cfg.regmap)
        len := 614408
        ctrl := s.cfg.ctrlWord
        enable := true
        irqPending := false
        dmaPos := 0
        configured := true } ∧
      t.pool = { s.pool with armed := some k, pendingNext := none } ∧ t.irq = s.irq ∧
      (∃ as bs, t.trace = s.trace ++ as ++ [.slotTake s.pool.pendingNext, .armedSet (some k)] ++ bs ∧
        fieldsWritten as = [.status c] ∧ as.length = 2 ∧
        fieldsWritten bs = [.status c, .src c, .dst c, .len c, .ctrl c, .enable c]) ∧
      { t with chans := s.chans, pool := s.pool, trace := s.trace } = s

/-- R221, R224: the handler is not entered with nothing pending, detached, masked, or from inside itself; that an
`IRQ_FRAME` issued there is refused is the model's (notes/assumptions/18.md, DEDUCED). Entered with nothing armed it is a
fault (R250), whatever `pending_next` holds: that a published buffer makes no difference is the model's
(notes/assumptions/34.md, DEDUCED). -/
def Obligations.HandlerIsNotEntered : Prop :=
  ∀ (s : State) (c : Nat) (ch : Channel), s.chans[c]? = some ch →
    (s.irq.ctx = .interrupt → exec (.irqFrame c) s = .refused .handlerNested) ∧
    (s.irq.ctx = .process →
      (ch.irqPending = false → exec (.irqFrame c) s = .refused .noCompletionPending) ∧
      (ch.irqPending = true → ch.lost = false →
        (s.irq.attached = false → exec (.irqFrame c) s = .refused .handlerDetached) ∧
        (s.irq.attached = true → s.irq.masked = true → exec (.irqFrame c) s = .refused .interruptMasked) ∧
        (s.irq.attached = true → s.irq.masked = false → s.pool.armed = none →
          exec (.irqFrame c) s = .fault .noArmedBuffer)))

/-- R217, R220, R221 (which step comes next is notes/assumptions/7.md): a completion that can be delivered is the next
step of a machine with nothing in its inbox, of one whose producer is about to take a step by itself, and of one whose
producer is busy and whose own next operation, whole or begun by its read half (R53 (d): notes/assumptions/38.md), or the
attachment, waits for it; what the producer is in the midst of, the inbox and transfer space are left as they were. -/
def Obligations.InterruptIsTakenAtOnce : Prop :=
  ∀ (s : State) (ch : Channel), configProblem s.cfg = none → s.chans = [ch] → ch.irqPending = true →
    ch.lost = false → s.irq.attached = true → s.irq.masked = false → s.irq.ctx = .process →
    (s.inbox = [] ∨
      (∃ rest, s.inbox = .producerStep :: rest ∧ producerHasWork s = true) ∨
      (∃ e rest, s.inbox = e :: rest ∧ (e = .attach ∨ ∃ op, e = .readHalf op) ∧
        producerBusy s = true) ∨
      (∃ code rest i tail, s.inbox = codeEvent code :: rest ∧ decode s.cfg code = .ok (i, tail) ∧
        isProducers i = true ∧ producerBusy s = true)) →
    step s = exec (.irqFrame 0) s ∧
    ∀ t, step s = .next t → t.producer = s.producer ∧ t.inbox = s.inbox ∧ t.txMem = s.txMem

/-- R226: what interrupt context never does does not run there. R226 says "never" and gives no outcome: that these
operations are refused, with nothing changed, is the model's (notes/assumptions/16.md, DEDUCED). -/
def Obligations.InterruptContextIsRestricted : Prop :=
  ∀ (s : State) (i : Instr), s.irq.ctx = .interrupt →
    ((∃ k, i = .encFrame k) ∨ (∃ b, bringupEdge i = some b) ∨ i = .teardown ∨ i = .poolAlloc ∨ i = .poolFree ∨
      (∃ c, i = .dmaStop c) ∨ (∃ k, i = .publishNext k)) →
    exec i s = .refused .processContextOnly

/-- R36, of the instructions (the steps that are none are not in it): no instruction of the same pipeline lifetime clears
an error record, and only the three operations that raise an error write it. That `TEARDOWN`, which ends the lifetime,
clears it is notes/assumptions/23.md, DEDUCED. -/
def Obligations.ErrorRecordIsSticky : Prop :=
  State.reset.err = none ∧ ∀ (s t : State) (i : Instr), exec i s = .next t →
    (s.err ≠ none → i ≠ .teardown → t.err ≠ none) ∧
    (t.err ≠ s.err → i = .teardown ∨ i = .poolAlloc ∨ (∃ k, i = .encFrame k) ∨ ∃ o, i = .tconCfg o)

/-! ### The whole machine -/

/-- R139: streaming a fully encoded buffer, from its first word, latches exactly the command and the `NPIX`
pixels, in order, whatever the strobe was, and ends in the completion. -/
def Obligations.StreamedFrameLatchesThePixels : Prop :=
  ∀ (s : State) (c : Nat) (ch : Channel) (b : Buffer) (P : Nat → Pixel), pinMapOk s.cfg = true →
    s.chans[c]? = some ch → ch.enable = true → ch.dmaPos = 0 → ch.len.toNat = frameBytes →
    ch.src.toNat = b.physBase →
    ch.irqPending = false → s.gpio.pinMode = .data → s.tcon.valid = true → holdsFrame s b P bufWords →
    ∃ t, xferRun c bufWords s = .next t ∧
      t.panel.latched = s.panel.latched ++ frameLatches s.cfg P ∧ (frameLatches s.cfg P).length = 76801 ∧
      t.panel.strobeSeen = true ∧ t.gpio.pinData = (encWord s.cfg true (P (nPix - 1))).2 ∧
      t.chans = s.chans.set c { ch with dmaPos := bufWords, enable := false, irqPending := true } ∧
      t.txMem = s.txMem ∧ t.pool = s.pool

/-- R195, R267: in the steady state the armed buffer, and the source of a channel, change only in the handler,
after a completion, to the published buffer, which then streams from its word 0. -/
def Obligations.SwapOnlyAtFrameBoundary : Prop :=
  ∀ (s t : State), Inv s → step s = .next t → s.bringup = .armed → t.bringup = .armed →
    (t.pool.armed ≠ s.pool.armed ∨ t.chans.map (·.src) ≠ s.chans.map (·.src)) →
    ∃ (c : Nat) (ch ch' : Channel) (k : Nat) (b : Buffer), s.chans[c]? = some ch ∧ ch.irqPending = true ∧
      ch.enable = false ∧ s.pool.pendingNext = some k ∧ t.pool.armed = some k ∧ t.pool.pendingNext = none ∧
      s.pool.bufs[k]? = some b ∧ t.chans[c]? = some ch' ∧ ch'.src.toNat = b.physBase ∧ ch'.dmaPos = 0 ∧
      ch'.enable = true ∧ ch'.irqPending = false

/-- R26, R261: no step changes a byte of the armed buffer. -/
def Obligations.ArmedBufferIsNeverMutated : Prop :=
  ∀ (s t : State) (k : Nat) (b : Buffer), Inv s → step s = .next t → s.pool.armed = some k →
    s.pool.bufs[k]? = some b → t.bringup = .armed →
    (∀ a, inBuffer b a → memRead t.txMem a = memRead s.txMem a) ∧
    t.pool.bufs[k]? = some b

/-- R216, with R224 for the handler: in the steady state the engine's step always completes, and so does the
handler on a pending completion, provided the published buffer, if any, is encoded; and so does the step of a
producer that is encoding, has yet to publish or has an operation to finish, provided every pixel holds a value (R272), a
`TEARDOWN` so begun being the one that leaves the steady state (R158). The producer's steps are the model's: the encode
step notes/assumptions/8.md (DEDUCED), the owed publish 33.md (DESIGN CHOICE), the operation begun by its read half, a
`TEARDOWN` too, 38.md (DESIGN CHOICE), and that the rest of a `TEARDOWN` clears the error record 23.md (DEDUCED). -/
def Obligations.SteadyStateNeverFails : Prop :=
  ∀ (s : State) (c : Nat) (ch : Channel), Inv s → configProblem s.cfg = none → s.bringup = .armed →
    s.chans[c]? = some ch →
    (ch.enable = true → ∃ t, exec (.dmaXfer c) s = .next t ∧ t.bringup = .armed ∧ t.err = s.err) ∧
    (ch.irqPending = true →
      (∀ k, s.pool.pendingNext = some k → ∃ b, s.pool.bufs[k]? = some b ∧ b.encoded = true) →
      ∃ t, exec (.irqFrame c) s = .next t ∧ t.bringup = .armed ∧ t.err = s.err) ∧
    (producerBusy s = true → (∀ i < nPix, ∃ p, readPixel s i = some p) →
      ∃ t, producerWork s = .next t ∧ ((t.bringup = .armed ∧ t.err = s.err) ∨
        (t.bringup = .unconfigured ∧ t.err = none ∧ ∃ r, s.producer.halfWrite = some ⟨.teardown, r⟩)))

/-- R213: from a state of the invariant no step is the InterruptLost stop: with a completion pending in the
steady state the handler is the step of an empty inbox. -/
def Obligations.InterruptLostIsNotReached : Prop :=
  ∀ (s : State) (c : Nat), Inv s → step s ≠ .fault (.interruptLost c)

/-- R57 to R60, R94, R183, R186, R188, R196: every step keeps the invariant. -/
def Obligations.StepKeepsTheInvariant : Prop :=
  ∀ (s t : State), Inv s → step s = .next t → Inv t

/-- The invariant holds after reset, under every configuration, of any number of channels. Two of its parts are no
rule's: that the line is unmasked at reset (notes/assumptions/30.md, DESIGN CHOICE) and that no channel is marked `lost`
(notes/assumptions/17.md, whose reset value is a DESIGN CHOICE). -/
def Obligations.ResetMeetsTheInvariant : Prop :=
  Inv State.reset ∧ ∀ c : Config, Inv (State.resetWith c)

/-- R40, R250: the state after reset under any configuration. What the table gives a value has it; what it leaves
unspecified is marked as holding none (that mark, and that an unlisted byte holds none, are notes/assumptions/9.md and
10.md). -/
def Obligations.StateAfterReset : Prop :=
  State.reset = State.resetWith Config.reference ∧ ∀ c : Config,
    (State.resetWith c).cfg = c ∧ (State.resetWith c).bringup = .unconfigured ∧
    (State.resetWith c).pool = ⟨false, [], none, none⟩ ∧
    (State.resetWith c).chans.length = c.nch ∧
    (∀ ch ∈ (State.resetWith c).chans, ch.enable = false ∧ ch.irqPending = false ∧ ch.configured = false) ∧
    (State.resetWith c).gpio.pinMode = .signal ∧ (State.resetWith c).crc = ⟨false, false, true, true⟩ ∧
    (State.resetWith c).tcon.valid = false ∧ (State.resetWith c).tcon.known = .none ∧
    (State.resetWith c).irq.attached = false ∧
    (State.resetWith c).irq.ctx = .process ∧ (State.resetWith c).err = none ∧
    (State.resetWith c).panel.strobeKnown = false ∧ (State.resetWith c).panel.latched = [] ∧
    (State.resetWith c).producer.encoding = none ∧
    ∀ a, memRead (State.resetWith c).txMem a = none ∧ memRead (State.resetWith c).pix.mem a = none

/-- R8: a configuration is refused, in every state, unless the four sets of positions lie in `0..31`, are
pairwise disjoint, and `BASE` is 0 on all of them; the reference binding is well formed. -/
def Obligations.IllFormedPinMapIsRefused : Prop :=
  (∀ c : Config, pinMapOk c = true ↔
    (∀ p, (c.aLsb ≤ p ∧ p ≤ c.aLsb + 7) ∨ (c.bLsb ≤ p ∧ p ≤ c.bLsb + 7) ∨ p = c.strobePos ∨ p = c.dcPos →
      p ≤ 31 ∧ c.base.getLsbD p = false) ∧
    (∀ p, ¬ ((c.aLsb ≤ p ∧ p ≤ c.aLsb + 7) ∧ (c.bLsb ≤ p ∧ p ≤ c.bLsb + 7))) ∧
    ¬ (c.aLsb ≤ c.strobePos ∧ c.strobePos ≤ c.aLsb + 7) ∧ ¬ (c.bLsb ≤ c.strobePos ∧ c.strobePos ≤ c.bLsb + 7) ∧
    ¬ (c.aLsb ≤ c.dcPos ∧ c.dcPos ≤ c.aLsb + 7) ∧ ¬ (c.bLsb ≤ c.dcPos ∧ c.dcPos ≤ c.bLsb + 7) ∧
    c.strobePos ≠ c.dcPos) ∧
  (∀ s : State, pinMapOk s.cfg = false → step s = .refused .pinMapIllFormed) ∧
  pinMapOk Config.reference = true

/-- R233, R138, R25: the collaborator's write of a pixel, at any time, changes that pixel and nothing else; the
next read of it sees the new value. -/
def Obligations.CollaboratorWritesOnePixel : Prop :=
  ∀ (s : State) (i : Nat) (p : Pixel) (rest : List Event), configProblem s.cfg = none →
    s.inbox = .pixelWrite i p :: rest → 2 * i + 2 ≤ s.pix.bytes →
    ∃ t, step s = .next t ∧ readPixel t i = some p ∧ (∀ j, j ≠ i → readPixel t j = readPixel s j) ∧
      (∀ a, a ≠ s.pix.base + 2 * i → a ≠ s.pix.base + 2 * i + 1 → memRead t.pix.mem a = memRead s.pix.mem a) ∧
      t.inbox = rest ∧ { t with pix := { t.pix with mem := s.pix.mem }, inbox := s.inbox } = s

/-- R232, R233 (the queue, the free choice as data, and that the notification is served step by step are
notes/assumptions/33.md and 7.md): a notification is accepted in every state, changes nothing but the queue of those
that wait, and so stalls nobody; taken up, it is `ENC_FRAME k` of a buffer that may be filled (R199), any of which can
be chosen, and, once that is encoded, `PUBLISH_NEXT k`. -/
def Obligations.NotificationIsServed : Prop :=
  (∀ (s : State) (offset n : Nat) (rest : List Event), configProblem s.cfg = none →
    s.inbox = .notify offset n :: rest →
    step s = .next { s with producer := { s.producer with notes := s.producer.notes ++ [n] }, inbox := rest }) ∧
  (∀ (s : State) (n : Nat), chooseBuffer s n ∈ fillCandidates s ∧
    (n ∈ fillCandidates s → chooseBuffer s n = n)) ∧
  (∀ (s t : State) (n k : Nat) (rest : List Nat), configProblem s.cfg = none → s.inbox = [] → deliverable s = none →
    s.producer.encoding = none → s.producer.thenPublish = none → s.producer.halfWrite = none →
    s.producer.notes = n :: rest →
    s.pool.allocated = true → k = chooseBuffer s n →
    exec (.encFrame k) { s with producer := { s.producer with notes := rest } } = .next t →
    t.producer.encoding = some k →
    step s = .next { t with producer := { t.producer with thenPublish := some k } }) ∧
  ∀ (s : State) (k : Nat), configProblem s.cfg = none → s.inbox = [] → deliverable s = none →
    s.producer.encoding = none → s.producer.thenPublish = some k →
    step s = exec (.publishNext k) { s with producer := { s.producer with thenPublish := none } }

/-- R66 with R52 and R53 (d) (the places of the fields and the bits no rule names are notes/assumptions/35.md and 36.md,
that a field is cleared by writing 0, which for a completion status R190 leaves open, 31.md, what the read gives of a
field that holds no value 37.md, and which operations can be torn, and that stale bits in the word written change no
other field, 38.md): whatever an instruction writes through the register map, but for `PINDATA`, it writes right after
reading the same register, and the word written differs from the word read within the named field alone; the bits no
rule names keep their values. `DMA_STOP` shows the read: the register as it stands. The last three clauses are the two
halves of a `DMA_STOP`, of a `DMA_ACK` and of a `TEARDOWN`, whose first access is a `DMA_STOP`, as steps of their own:
the read half keeps the word read; the write-back, whatever the engine and the handler did since, writes that word with
the field cleared, and changes that field of the state alone (R22, R28, R218); a `TEARDOWN` then goes on to where a whole
one ends. -/
def Obligations.RegistersAreReadModifyWritten : Prop :=
  (∀ (s t : State) (i : Instr), exec i s = .next t →
    t.regOther = s.regOther ∧ ∃ as, t.trace = s.trace ++ as ∧ readModifyWrites s.cfg.regmap as) ∧
  (∀ (s : State) (c : Nat) (ch : Channel) (a : Nat), s.irq.ctx = .process → s.chans[c]? = some ch →
    a = (RegMap.locate s.cfg.regmap (.enable c)).addr →
    ∃ t w, exec (.dmaStop c) s = .next t ∧
      t.trace = s.trace ++ [.read a (registerWord s a), .write a (.enable c) w] ∧
      clearedWithin (RegMap.locate s.cfg.regmap (.enable c)).bits (registerWord s a) w) ∧
  (∀ (s : State) (op : TornOp) (c a : Nat) (f : RegField) (rest : List Event) (ch : Channel),
    configProblem s.cfg = none → s.inbox = .readHalf op :: rest → s.irq.ctx = .process → producerBusy s = false →
    s.chans[c]? = some ch → a = (RegMap.locate s.cfg.regmap f).addr →
    (op = .dmaStop c ∧ f = .enable c) ∨ (op = .dmaAck c ∧ f = .status c) ∨
      (op = .teardown ∧ c = 0 ∧ f = .enable 0) →
    step s = .next { s with
      inbox := rest
      trace := s.trace ++ [.read a (registerWord s a)]
      producer := { s.producer with halfWrite := some ⟨op, registerWord s a⟩ } }) ∧
  (∀ (s : State) (op : TornOp) (c a : Nat) (f : RegField) (r : Word) (ch ch' : Channel), s.producer.encoding = none →
    s.producer.thenPublish = none → s.producer.halfWrite = some ⟨op, r⟩ → s.chans[c]? = some ch →
    a = (RegMap.locate s.cfg.regmap f).addr →
    (op = .dmaStop c ∧ f = .enable c ∧ ch' = { ch with enable := false }) ∨
      (op = .dmaAck c ∧ f = .status c ∧ ch' = { ch with irqPending := false }) →
    ∃ w, clearedWithin (RegMap.locate s.cfg.regmap f).bits r w ∧
      producerWork s = .next { s with
        chans := s.chans.set c ch'
        trace := s.trace ++ [.write a f w]
        producer := { s.producer with halfWrite := none }
        ret := .void }) ∧
  ∀ (s u : State) (a : Nat) (r : Word) (ch : Channel), s.producer.encoding = none → s.producer.thenPublish = none →
    s.producer.halfWrite = some ⟨.teardown, r⟩ → s.chans[0]? = some ch →
    a = (RegMap.locate s.cfg.regmap (.enable 0)).addr → exec .teardown s = .next u →
    ∃ w as, clearedWithin (RegMap.locate s.cfg.regmap (.enable 0)).bits r w ∧
      fieldsWritten as = (List.range' 1 (s.chans.length - 1)).map RegField.enable ++ [.clkDma, .clkTcon] ∧
      producerWork s = .next { u with
        trace := s.trace ++ .write a (.enable 0) w :: as
        producer := { u.producer with halfWrite := none } }

/-! ### Decoding and the step -/

/-- R81, R90, R96 (the operand bytes are notes/assumptions/4.md): decoding the encoding of a well-formed instruction
gives it back, whatever follows it; and a word that decodes is the encoding of what it decodes to. -/
def Obligations.DecodeEncodeAgree : Prop :=
  ∀ (c : Config), pinMapOk c = true →
    (∀ (i : Instr) (w : Word), encodeWord c i = some w → encode c i = .word w ∧ decode c (.word w) = .ok (i, [])) ∧
    (∀ (i : Instr) (tag : Byte), i.wf = true → opsel i = some tag →
      encode c i = .bytes (tag :: encodeOperands i) ∧
      ∀ rest, decode c (.bytes (tag :: encodeOperands i ++ rest)) = .ok (i, rest)) ∧
    (∀ i : Instr, (encodeWord c i).isSome = true ∨ (opsel i).isSome = true) ∧
    ∀ (w : Word) (i : Instr) (tail : List Byte), decode c (.word w) = .ok (i, tail) →
      encode c i = .word w ∧ tail = []

/-- R90, R96: words and tags written out from the spec's tables decode to what they stand for, and the tags R96 does not
list are illegal. The operand bytes after a tag are the model's (notes/assumptions/4.md). -/
def Obligations.TableWordsDecode : Prop :=
  decode Config.reference (.word 0x00000058#32) = .ok (.cmdLo 0x002C#16, []) ∧
  decode Config.reference (.word 0x00040058#32) = .ok (.cmdHi 0x002C#16, []) ∧
  decode Config.reference (.word 0x000BE000#32) = .ok (.datLo 0xF800#16, []) ∧
  decode Config.reference (.word 0x000C003E#32) = .ok (.datHi 0x001F#16, []) ∧
  decode Config.reference (.bytes [0x01#8, 0x2C#8]) = .ok (.encCmd 0x2C#8, []) ∧
  decode Config.reference (.bytes [0x1F#8]) = .ok (.teardown, []) ∧
  decode Config.reference (.bytes [0x34#8, 0#8, 1#8]) = .ok (.dmaRearm 0 1, []) ∧
  decode Config.reference (.bytes [0x50#8, 0#8]) = .ok (.irqFrame 0, []) ∧
  ∀ (tag : Byte) (bs : List Byte),
    tag.toNat ∉ [0x01, 0x02, 0x03, 0x04, 0x05, 0x10, 0x11, 0x12, 0x13, 0x14, 0x1F, 0x20, 0x21, 0x22, 0x30, 0x31, 0x32,
      0x33, 0x34, 0x35, 0x40, 0x41, 0x50] →
    decode Config.reference (.bytes (tag :: bs)) = .error (.illegalOpsel tag)

/-- The step runs the decoded instruction (notes/assumptions/3.md and 7.md): with a code first in the inbox, under an
admitted configuration, the step is `exec` of the instruction it decodes to, with the rest of the code left to
fetch; an operation of the producer waits while its `ENC_FRAME` is in progress, or while it owes a publish (R232) or the
write-back, and all after it, of an operation begun by its read half (R53 (d): notes/assumptions/38.md), and that goes
on. -/
def Obligations.StepRunsTheDecodedInstruction : Prop :=
  ∀ (s : State) (code : Code) (rest : List Event) (i : Instr) (tail : List Byte), configProblem s.cfg = none →
    s.inbox = codeEvent code :: rest → decode s.cfg code = .ok (i, tail) →
    ((s.producer.encoding = none ∧ s.producer.thenPublish = none ∧ s.producer.halfWrite = none) ∨
        isProducers i = false →
      step s = exec i { s with inbox := if tail = [] then rest else .calls tail :: rest }) ∧
    (isProducers i = true → deliverable s = none →
      (s.producer.encoding.isSome = true → step s = encodeStep s) ∧
      (s.producer.encoding = none → ∀ k, s.producer.thenPublish = some k →
        step s = exec (.publishNext k) { s with producer := { s.producer with thenPublish := none } }) ∧
      (s.producer.encoding = none → s.producer.thenPublish = none → ∀ h, s.producer.halfWrite = some h →
        step s = finishTorn h s))
end

