-- ==== Sys2Proof/Laws/Decode.lean ====
section
/-! SUPPORT. The operand bytes: taking what was given returns it and leaves what follows. -/

namespace Sys2Proof

theorem take4_give4 (v : BitVec 32) (rest : List Byte) : take4 (give4 v ++ rest) = some (v, rest) := by
  simp only [give4, List.cons_append, List.nil_append, take4]
  congr 2
  apply BitVec.eq_of_getLsbD_eq
  intro i hi
  simp only [BitVec.getLsbD_append, BitVec.getLsbD_extractLsb']
  (repeat' split) <;> (rw [decide_eq_true (by omega), Bool.true_and]; congr 1; omega)

theorem take2_give2 (v : BitVec 16) (rest : List Byte) : take2 (give2 v ++ rest) = some (v, rest) := by
  simp only [give2, List.cons_append, List.nil_append, take2]
  congr 2
  apply BitVec.eq_of_getLsbD_eq
  intro i hi
  simp only [BitVec.getLsbD_append, BitVec.getLsbD_extractLsb']
  (repeat' split) <;> (rw [decide_eq_true (by omega), Bool.true_and]; congr 1; omega)

theorem giveIndex_toNat {n : Nat} (h : indexFits n = true) : (giveIndex n).toNat = n := by
  simp only [indexFits, decide_eq_true_eq] at h
  simp only [giveIndex, BitVec.toNat_ofNat]
  omega

end Sys2Proof
end

