-- ==== Sys2Proof/Laws/Memory.lean ====
section
/-! SUPPORT. Laws of the byte memory and of its cells: read after write, what a write leaves alone, and
the canonical form. -/

namespace Sys2Proof.Machine

theorem memRead_memWrite_same (m : Memory) (x : Nat) (v : Byte) : memRead (memWrite m x v) x = some v := by
  induction m with
  | nil => simp [memWrite, memRead]
  | cons c m ih =>
    obtain ⟨a, b⟩ := c
    simp only [memWrite]
    split
    · simp [memRead]
    · split
      · simp [memRead]
      · simp [memRead, *]

theorem memRead_memWrite_other (m : Memory) {x y : Nat} (v : Byte) (h : y ≠ x) :
    memRead (memWrite m x v) y = memRead m y := by
  induction m with
  | nil => simp [memWrite, memRead, h]
  | cons c m ih =>
    obtain ⟨a, b⟩ := c
    simp only [memWrite]
    split
    · simp [memRead, h]
    · split
      · subst_vars; simp [memRead, h]
      · simp only [memRead, ih]

/-- Read after write, both cases. -/
theorem memRead_memWrite (m : Memory) (x y : Nat) (v : Byte) :
    memRead (memWrite m x v) y = if y = x then some v else memRead m y := by
  split
  · subst_vars; exact memRead_memWrite_same m _ v
  · exact memRead_memWrite_other m v ‹_›

/-- The first address listed in a memory, if it lies below every address of `m`. -/
theorem Memory.wf_cons (a : Nat) (b : Byte) (m : Memory) :
    Memory.wf ((a, b) :: m) = (m.head?.all (fun c => decide (a < c.1)) && Memory.wf m) := by
  cases m with
  | nil => simp [Memory.wf]
  | cons c m => obtain ⟨d, e⟩ := c; simp [Memory.wf]

theorem memWrite_head (m : Memory) (x : Nat) (v : Byte) (a : Nat) (ha : a < x)
    (hm : m.head?.all (fun c => decide (a < c.1)) = true) :
    (memWrite m x v).head?.all (fun c => decide (a < c.1)) = true := by
  cases m with
  | nil => simp [memWrite, ha]
  | cons c m =>
    obtain ⟨d, e⟩ := c
    simp only [memWrite]
    split
    · simp [ha]
    · split
      · simp [ha]
      · simpa using hm

/-- A byte write keeps the canonical form. -/
theorem memWrite_wf (m : Memory) (x : Nat) (v : Byte) (h : Memory.wf m = true) :
    Memory.wf (memWrite m x v) = true := by
  induction m with
  | nil => simp [memWrite, Memory.wf]
  | cons c m ih =>
    obtain ⟨a, b⟩ := c
    rw [Memory.wf_cons] at h
    simp only [Bool.and_eq_true] at h
    simp only [memWrite]
    split
    · rename_i hx
      rw [Memory.wf_cons, Memory.wf_cons]
      simp [hx, h.1, h.2]
    · split
      · subst_vars
        rw [Memory.wf_cons]
        simp [h.1, h.2]
      · rw [Memory.wf_cons, memWrite_head m x v a (by omega) h.1, ih h.2]
        rfl

theorem write32_wf (e : Endian) (m : Memory) (a : Nat) (w : Word) (h : Memory.wf m = true) :
    Memory.wf (write32 e m a w) = true :=
  memWrite_wf _ _ _ (memWrite_wf _ _ _ (memWrite_wf _ _ _ (memWrite_wf _ _ _ h)))

theorem write16_wf (e : Endian) (m : Memory) (a : Nat) (p : Pixel) (h : Memory.wf m = true) :
    Memory.wf (write16 e m a p) = true :=
  memWrite_wf _ _ _ (memWrite_wf _ _ _ h)

/-- The bytes of a word make the word. -/
theorem wordOfBytes_wordByte (e : Endian) (w : Word) :
    wordOfBytes e (wordByte e w 0) (wordByte e w 1) (wordByte e w 2) (wordByte e w 3) = w := by
  apply BitVec.eq_of_getLsbD_eq
  intro i hi
  cases e <;> simp only [wordOfBytes, wordByte, BitVec.getLsbD_append, BitVec.getLsbD_extractLsb'] <;>
    (repeat' split) <;> (rw [decide_eq_true (by omega), Bool.true_and]; congr 1; omega)

/-- The bytes of a pixel make the pixel. -/
theorem pixelOfBytes_pixelByte (e : Endian) (p : Pixel) :
    pixelOfBytes e (pixelByte e p 0) (pixelByte e p 1) = p := by
  apply BitVec.eq_of_getLsbD_eq
  intro i hi
  cases e <;> simp only [pixelOfBytes, pixelByte, BitVec.getLsbD_append, BitVec.getLsbD_extractLsb'] <;>
    (repeat' split) <;> (rw [decide_eq_true (by omega), Bool.true_and]; congr 1; omega)

/-- A byte outside the four stored ones reads as before. -/
theorem memRead_write32_other (e : Endian) (m : Memory) (a : Nat) (w : Word) {x : Nat}
    (h : x < a ∨ a + 4 ≤ x) : memRead (write32 e m a w) x = memRead m x := by
  simp only [write32]
  rw [memRead_memWrite_other _ _ (by omega), memRead_memWrite_other _ _ (by omega),
    memRead_memWrite_other _ _ (by omega), memRead_memWrite_other _ _ (by omega)]

/-- A byte of the four stored ones reads as the word's byte. -/
theorem memRead_write32_same (e : Endian) (m : Memory) (a : Nat) (w : Word) (i : Nat) (h : i < 4) :
    memRead (write32 e m a w) (a + i) = some (wordByte e w i) := by
  simp only [write32, memRead_memWrite]
  have : i = 0 ∨ i = 1 ∨ i = 2 ∨ i = 3 := by omega
  rcases this with rfl | rfl | rfl | rfl <;> simp

/-- A word read after it was written. -/
theorem read32_write32_same (e : Endian) (m : Memory) (a : Nat) (w : Word) :
    read32 e (write32 e m a w) a = some w := by
  have h := memRead_write32_same e m a w
  have h0 := h 0 (by omega)
  rw [Nat.add_zero] at h0
  simp only [read32, h0, h 1 (by omega), h 2 (by omega), h 3 (by omega), wordOfBytes_wordByte]

/-- A word that shares no byte with the written one reads as before. -/
theorem read32_write32_other (e : Endian) (m : Memory) (a : Nat) (w : Word) {x : Nat}
    (h : x + 4 ≤ a ∨ a + 4 ≤ x) : read32 e (write32 e m a w) x = read32 e m x := by
  simp only [read32]
  rw [memRead_write32_other e m a w (by omega), memRead_write32_other e m a w (by omega),
    memRead_write32_other e m a w (by omega), memRead_write32_other e m a w (by omega)]

/-- Words whose bytes read alike are equal. -/
theorem read32_congr (e : Endian) (m m' : Memory) (a : Nat)
    (h : ∀ x, a ≤ x → x < a + 4 → memRead m x = memRead m' x) : read32 e m a = read32 e m' a := by
  simp only [read32, h a (by omega) (by omega), h (a + 1) (by omega) (by omega), h (a + 2) (by omega) (by omega),
    h (a + 3) (by omega) (by omega)]

/-- A byte outside the two stored ones reads as before. -/
theorem memRead_write16_other (e : Endian) (m : Memory) (a : Nat) (p : Pixel) {x : Nat}
    (h : x < a ∨ a + 2 ≤ x) : memRead (write16 e m a p) x = memRead m x := by
  simp only [write16]
  rw [memRead_memWrite_other _ _ (by omega), memRead_memWrite_other _ _ (by omega)]

/-- A pixel read after it was written. -/
theorem read16_write16_same (e : Endian) (m : Memory) (a : Nat) (p : Pixel) :
    read16 e (write16 e m a p) a = some p := by
  simp only [read16, write16, memRead_memWrite]
  simp [pixelOfBytes_pixelByte]

/-- A pixel that shares no byte with the written one reads as before. -/
theorem read16_write16_other (e : Endian) (m : Memory) (a : Nat) (p : Pixel) {x : Nat}
    (h : x + 2 ≤ a ∨ a + 2 ≤ x) : read16 e (write16 e m a p) x = read16 e m x := by
  simp only [read16]
  rw [memRead_write16_other e m a p (by omega), memRead_write16_other e m a p (by omega)]

end Sys2Proof.Machine
end

