-- ==== Sys2Proof/Laws/Frame.lean ====
section
/-! SUPPORT. The words of a frame, and what writing one pair of a buffer leaves in transfer space. -/

namespace Sys2Proof

/-- Words 0 and 1 of a frame are the command pair (R94). -/
theorem frameWord_command (c : Config) (P : Nat → Pixel) :
    frameWord c P 0 = (encWord c false (cmdValue c.cmdWritePixels)).1 ∧
      frameWord c P 1 = (encWord c false (cmdValue c.cmdWritePixels)).2 := by
  constructor <;> rfl

/-- Words `2+2*i` and `3+2*i` of a frame are the pair of pixel `i` (R94). -/
theorem frameWord_pixel (c : Config) (P : Nat → Pixel) (i : Nat) :
    frameWord c P (2 + 2 * i) = (encWord c true (P i)).1 ∧ frameWord c P (3 + 2 * i) = (encWord c true (P i)).2 := by
  have h1 : ¬ (2 + 2 * i < 2) := by omega
  have h2 : ¬ (3 + 2 * i < 2) := by omega
  have h3 : (2 + 2 * i - 2) / 2 = i := by omega
  have h4 : (3 + 2 * i - 2) / 2 = i := by omega
  have h5 : (2 + 2 * i) % 2 = 0 := by omega
  have h6 : ¬ (3 + 2 * i) % 2 = 0 := by omega
  constructor
  · simp only [frameWord, h1, h3, h5, if_true, if_false]
  · simp only [frameWord, h2, h4, h6, if_false]

/-- The first `2+2*n` words of a frame depend on the first `n` pixels alone. -/
theorem frameWord_congr (c : Config) {P Q : Nat → Pixel} {n : Nat} (h : ∀ i < n, P i = Q i) {j : Nat}
    (hj : j < 2 + 2 * n) : frameWord c P j = frameWord c Q j := by
  simp only [frameWord]
  by_cases h2 : j < 2
  · simp only [h2, if_true]
  · simp only [h2, if_false, h ((j - 2) / 2) (by omega)]

namespace Machine

/-- The words of a buffer after one of its pairs is written. -/
theorem readTx_writeTxPair (b : Buffer) (j : Nat) (pair : Word × Word) (s : State) (i : Nat) :
    readTx (writeTxPair b j pair s) b i =
      if i = j then some pair.1 else if i = j + 1 then some pair.2 else readTx s b i := by
  simp only [readTx, writeTxPair]
  by_cases h1 : i = j + 1
  · subst h1
    simp [read32_write32_same]
  · by_cases h2 : i = j
    · subst h2
      rw [read32_write32_other _ _ _ _ (by simp only [txAddr, wordBytes]; omega), read32_write32_same]
      simp
    · rw [if_neg h2, if_neg h1, read32_write32_other _ _ _ _ (by simp only [txAddr, wordBytes]; omega),
        read32_write32_other _ _ _ _ (by simp only [txAddr, wordBytes]; omega)]

/-- A byte outside the eight written ones reads as before. -/
theorem memRead_writeTxPair (b : Buffer) (j : Nat) (pair : Word × Word) (s : State) {a : Nat}
    (h : a < b.physBase + 4 * j ∨ b.physBase + 4 * (j + 2) ≤ a) :
    memRead (writeTxPair b j pair s).txMem a = memRead s.txMem a := by
  simp only [writeTxPair, txAddr, wordBytes]
  rw [memRead_write32_other _ _ _ _ (by omega), memRead_write32_other _ _ _ _ (by omega)]

end Machine

end Sys2Proof
end

