-- ==== Sys2Proof/Laws/State.lean ====
section
/-! SUPPORT. What each state update of Machine/Ops.lean does to each field, one lemma per field per update,
so that no later proof unfolds a record update; and what a register write leaves alone. -/

namespace Sys2Proof.Machine

variable (s : State)

@[simp] theorem State.log_cfg (as : List Access) : (s.log as).cfg = s.cfg := rfl
@[simp] theorem State.log_producer (as : List Access) : (s.log as).producer = s.producer := rfl
@[simp] theorem State.log_pool (as : List Access) : (s.log as).pool = s.pool := rfl
@[simp] theorem State.log_pix (as : List Access) : (s.log as).pix = s.pix := rfl
@[simp] theorem State.log_txMem (as : List Access) : (s.log as).txMem = s.txMem := rfl
@[simp] theorem State.log_crc (as : List Access) : (s.log as).crc = s.crc := rfl
@[simp] theorem State.log_gpio (as : List Access) : (s.log as).gpio = s.gpio := rfl
@[simp] theorem State.log_tcon (as : List Access) : (s.log as).tcon = s.tcon := rfl
@[simp] theorem State.log_chans (as : List Access) : (s.log as).chans = s.chans := rfl
@[simp] theorem State.log_regOther (as : List Access) : (s.log as).regOther = s.regOther := rfl
@[simp] theorem State.log_irq (as : List Access) : (s.log as).irq = s.irq := rfl
@[simp] theorem State.log_bringup (as : List Access) : (s.log as).bringup = s.bringup := rfl
@[simp] theorem State.log_err (as : List Access) : (s.log as).err = s.err := rfl
@[simp] theorem State.log_panel (as : List Access) : (s.log as).panel = s.panel := rfl
@[simp] theorem State.log_ret (as : List Access) : (s.log as).ret = s.ret := rfl
@[simp] theorem State.log_trace (as : List Access) : (s.log as).trace = s.trace ++ as := rfl
@[simp] theorem State.log_allocDraws (as : List Access) : (s.log as).allocDraws = s.allocDraws := rfl
@[simp] theorem State.log_inbox (as : List Access) : (s.log as).inbox = s.inbox := rfl

@[simp] theorem State.setRet_cfg (r : Ret) : (s.setRet r).cfg = s.cfg := rfl
@[simp] theorem State.setRet_producer (r : Ret) : (s.setRet r).producer = s.producer := rfl
@[simp] theorem State.setRet_pool (r : Ret) : (s.setRet r).pool = s.pool := rfl
@[simp] theorem State.setRet_pix (r : Ret) : (s.setRet r).pix = s.pix := rfl
@[simp] theorem State.setRet_txMem (r : Ret) : (s.setRet r).txMem = s.txMem := rfl
@[simp] theorem State.setRet_crc (r : Ret) : (s.setRet r).crc = s.crc := rfl
@[simp] theorem State.setRet_gpio (r : Ret) : (s.setRet r).gpio = s.gpio := rfl
@[simp] theorem State.setRet_tcon (r : Ret) : (s.setRet r).tcon = s.tcon := rfl
@[simp] theorem State.setRet_chans (r : Ret) : (s.setRet r).chans = s.chans := rfl
@[simp] theorem State.setRet_regOther (r : Ret) : (s.setRet r).regOther = s.regOther := rfl
@[simp] theorem State.setRet_irq (r : Ret) : (s.setRet r).irq = s.irq := rfl
@[simp] theorem State.setRet_bringup (r : Ret) : (s.setRet r).bringup = s.bringup := rfl
@[simp] theorem State.setRet_err (r : Ret) : (s.setRet r).err = s.err := rfl
@[simp] theorem State.setRet_panel (r : Ret) : (s.setRet r).panel = s.panel := rfl
@[simp] theorem State.setRet_ret (r : Ret) : (s.setRet r).ret = r := rfl
@[simp] theorem State.setRet_trace (r : Ret) : (s.setRet r).trace = s.trace := rfl
@[simp] theorem State.setRet_allocDraws (r : Ret) : (s.setRet r).allocDraws = s.allocDraws := rfl
@[simp] theorem State.setRet_inbox (r : Ret) : (s.setRet r).inbox = s.inbox := rfl

@[simp] theorem State.setChan_cfg (c : Nat) (ch : Channel) : (s.setChan c ch).cfg = s.cfg := rfl
@[simp] theorem State.setChan_producer (c : Nat) (ch : Channel) : (s.setChan c ch).producer = s.producer := rfl
@[simp] theorem State.setChan_pool (c : Nat) (ch : Channel) : (s.setChan c ch).pool = s.pool := rfl
@[simp] theorem State.setChan_pix (c : Nat) (ch : Channel) : (s.setChan c ch).pix = s.pix := rfl
@[simp] theorem State.setChan_txMem (c : Nat) (ch : Channel) : (s.setChan c ch).txMem = s.txMem := rfl
@[simp] theorem State.setChan_crc (c : Nat) (ch : Channel) : (s.setChan c ch).crc = s.crc := rfl
@[simp] theorem State.setChan_gpio (c : Nat) (ch : Channel) : (s.setChan c ch).gpio = s.gpio := rfl
@[simp] theorem State.setChan_tcon (c : Nat) (ch : Channel) : (s.setChan c ch).tcon = s.tcon := rfl
@[simp] theorem State.setChan_chans (c : Nat) (ch : Channel) : (s.setChan c ch).chans = s.chans.set c ch := rfl
@[simp] theorem State.setChan_regOther (c : Nat) (ch : Channel) : (s.setChan c ch).regOther = s.regOther := rfl
@[simp] theorem State.setChan_irq (c : Nat) (ch : Channel) : (s.setChan c ch).irq = s.irq := rfl
@[simp] theorem State.setChan_bringup (c : Nat) (ch : Channel) : (s.setChan c ch).bringup = s.bringup := rfl
@[simp] theorem State.setChan_err (c : Nat) (ch : Channel) : (s.setChan c ch).err = s.err := rfl
@[simp] theorem State.setChan_panel (c : Nat) (ch : Channel) : (s.setChan c ch).panel = s.panel := rfl
@[simp] theorem State.setChan_ret (c : Nat) (ch : Channel) : (s.setChan c ch).ret = s.ret := rfl
@[simp] theorem State.setChan_trace (c : Nat) (ch : Channel) : (s.setChan c ch).trace = s.trace := rfl
@[simp] theorem State.setChan_allocDraws (c : Nat) (ch : Channel) : (s.setChan c ch).allocDraws = s.allocDraws := rfl
@[simp] theorem State.setChan_inbox (c : Nat) (ch : Channel) : (s.setChan c ch).inbox = s.inbox := rfl

@[simp] theorem State.modChan_cfg (c : Nat) (f : Channel → Channel) : (s.modChan c f).cfg = s.cfg := rfl
@[simp] theorem State.modChan_producer (c : Nat) (f : Channel → Channel) : (s.modChan c f).producer = s.producer := rfl
@[simp] theorem State.modChan_pool (c : Nat) (f : Channel → Channel) : (s.modChan c f).pool = s.pool := rfl
@[simp] theorem State.modChan_pix (c : Nat) (f : Channel → Channel) : (s.modChan c f).pix = s.pix := rfl
@[simp] theorem State.modChan_txMem (c : Nat) (f : Channel → Channel) : (s.modChan c f).txMem = s.txMem := rfl
@[simp] theorem State.modChan_crc (c : Nat) (f : Channel → Channel) : (s.modChan c f).crc = s.crc := rfl
@[simp] theorem State.modChan_gpio (c : Nat) (f : Channel → Channel) : (s.modChan c f).gpio = s.gpio := rfl
@[simp] theorem State.modChan_tcon (c : Nat) (f : Channel → Channel) : (s.modChan c f).tcon = s.tcon := rfl
@[simp] theorem State.modChan_chans (c : Nat) (f : Channel → Channel) : (s.modChan c f).chans = s.chans.modify c f := rfl
@[simp] theorem State.modChan_regOther (c : Nat) (f : Channel → Channel) : (s.modChan c f).regOther = s.regOther := rfl
@[simp] theorem State.modChan_irq (c : Nat) (f : Channel → Channel) : (s.modChan c f).irq = s.irq := rfl
@[simp] theorem State.modChan_bringup (c : Nat) (f : Channel → Channel) : (s.modChan c f).bringup = s.bringup := rfl
@[simp] theorem State.modChan_err (c : Nat) (f : Channel → Channel) : (s.modChan c f).err = s.err := rfl
@[simp] theorem State.modChan_panel (c : Nat) (f : Channel → Channel) : (s.modChan c f).panel = s.panel := rfl
@[simp] theorem State.modChan_ret (c : Nat) (f : Channel → Channel) : (s.modChan c f).ret = s.ret := rfl
@[simp] theorem State.modChan_trace (c : Nat) (f : Channel → Channel) : (s.modChan c f).trace = s.trace := rfl
@[simp] theorem State.modChan_allocDraws (c : Nat) (f : Channel → Channel) : (s.modChan c f).allocDraws = s.allocDraws := rfl
@[simp] theorem State.modChan_inbox (c : Nat) (f : Channel → Channel) : (s.modChan c f).inbox = s.inbox := rfl

@[simp] theorem State.markConfigured_cfg (c : Nat) : (s.markConfigured c).cfg = s.cfg := rfl
@[simp] theorem State.markConfigured_producer (c : Nat) : (s.markConfigured c).producer = s.producer := rfl
@[simp] theorem State.markConfigured_pool (c : Nat) : (s.markConfigured c).pool = s.pool := rfl
@[simp] theorem State.markConfigured_pix (c : Nat) : (s.markConfigured c).pix = s.pix := rfl
@[simp] theorem State.markConfigured_txMem (c : Nat) : (s.markConfigured c).txMem = s.txMem := rfl
@[simp] theorem State.markConfigured_crc (c : Nat) : (s.markConfigured c).crc = s.crc := rfl
@[simp] theorem State.markConfigured_gpio (c : Nat) : (s.markConfigured c).gpio = s.gpio := rfl
@[simp] theorem State.markConfigured_tcon (c : Nat) : (s.markConfigured c).tcon = s.tcon := rfl
@[simp] theorem State.markConfigured_chans (c : Nat) : (s.markConfigured c).chans = s.chans.modify c fun ch => { ch with configured := true } := rfl
@[simp] theorem State.markConfigured_regOther (c : Nat) : (s.markConfigured c).regOther = s.regOther := rfl
@[simp] theorem State.markConfigured_irq (c : Nat) : (s.markConfigured c).irq = s.irq := rfl
@[simp] theorem State.markConfigured_bringup (c : Nat) : (s.markConfigured c).bringup = s.bringup := rfl
@[simp] theorem State.markConfigured_err (c : Nat) : (s.markConfigured c).err = s.err := rfl
@[simp] theorem State.markConfigured_panel (c : Nat) : (s.markConfigured c).panel = s.panel := rfl
@[simp] theorem State.markConfigured_ret (c : Nat) : (s.markConfigured c).ret = s.ret := rfl
@[simp] theorem State.markConfigured_trace (c : Nat) : (s.markConfigured c).trace = s.trace := rfl
@[simp] theorem State.markConfigured_allocDraws (c : Nat) : (s.markConfigured c).allocDraws = s.allocDraws := rfl
@[simp] theorem State.markConfigured_inbox (c : Nat) : (s.markConfigured c).inbox = s.inbox := rfl

@[simp] theorem State.setBuf_cfg (k : Nat) (b : Buffer) : (s.setBuf k b).cfg = s.cfg := rfl
@[simp] theorem State.setBuf_producer (k : Nat) (b : Buffer) : (s.setBuf k b).producer = s.producer := rfl
@[simp] theorem State.setBuf_pool_allocated (k : Nat) (b : Buffer) : (s.setBuf k b).pool.allocated = s.pool.allocated := rfl
@[simp] theorem State.setBuf_pool_bufs (k : Nat) (b : Buffer) : (s.setBuf k b).pool.bufs = s.pool.bufs.set k b := rfl
@[simp] theorem State.setBuf_pool_armed (k : Nat) (b : Buffer) : (s.setBuf k b).pool.armed = s.pool.armed := rfl
@[simp] theorem State.setBuf_pool_pendingNext (k : Nat) (b : Buffer) : (s.setBuf k b).pool.pendingNext = s.pool.pendingNext := rfl
@[simp] theorem State.setBuf_pix (k : Nat) (b : Buffer) : (s.setBuf k b).pix = s.pix := rfl
@[simp] theorem State.setBuf_txMem (k : Nat) (b : Buffer) : (s.setBuf k b).txMem = s.txMem := rfl
@[simp] theorem State.setBuf_crc (k : Nat) (b : Buffer) : (s.setBuf k b).crc = s.crc := rfl
@[simp] theorem State.setBuf_gpio (k : Nat) (b : Buffer) : (s.setBuf k b).gpio = s.gpio := rfl
@[simp] theorem State.setBuf_tcon (k : Nat) (b : Buffer) : (s.setBuf k b).tcon = s.tcon := rfl
@[simp] theorem State.setBuf_chans (k : Nat) (b : Buffer) : (s.setBuf k b).chans = s.chans := rfl
@[simp] theorem State.setBuf_regOther (k : Nat) (b : Buffer) : (s.setBuf k b).regOther = s.regOther := rfl
@[simp] theorem State.setBuf_irq (k : Nat) (b : Buffer) : (s.setBuf k b).irq = s.irq := rfl
@[simp] theorem State.setBuf_bringup (k : Nat) (b : Buffer) : (s.setBuf k b).bringup = s.bringup := rfl
@[simp] theorem State.setBuf_err (k : Nat) (b : Buffer) : (s.setBuf k b).err = s.err := rfl
@[simp] theorem State.setBuf_panel (k : Nat) (b : Buffer) : (s.setBuf k b).panel = s.panel := rfl
@[simp] theorem State.setBuf_ret (k : Nat) (b : Buffer) : (s.setBuf k b).ret = s.ret := rfl
@[simp] theorem State.setBuf_trace (k : Nat) (b : Buffer) : (s.setBuf k b).trace = s.trace := rfl
@[simp] theorem State.setBuf_allocDraws (k : Nat) (b : Buffer) : (s.setBuf k b).allocDraws = s.allocDraws := rfl
@[simp] theorem State.setBuf_inbox (k : Nat) (b : Buffer) : (s.setBuf k b).inbox = s.inbox := rfl

@[simp] theorem State.setArmed_cfg (a : Option Nat) : (s.setArmed a).cfg = s.cfg := rfl
@[simp] theorem State.setArmed_producer (a : Option Nat) : (s.setArmed a).producer = s.producer := rfl
@[simp] theorem State.setArmed_pool_allocated (a : Option Nat) : (s.setArmed a).pool.allocated = s.pool.allocated := rfl
@[simp] theorem State.setArmed_pool_bufs (a : Option Nat) : (s.setArmed a).pool.bufs = s.pool.bufs := rfl
@[simp] theorem State.setArmed_pool_armed (a : Option Nat) : (s.setArmed a).pool.armed = a := rfl
@[simp] theorem State.setArmed_pool_pendingNext (a : Option Nat) : (s.setArmed a).pool.pendingNext = s.pool.pendingNext := rfl
@[simp] theorem State.setArmed_pix (a : Option Nat) : (s.setArmed a).pix = s.pix := rfl
@[simp] theorem State.setArmed_txMem (a : Option Nat) : (s.setArmed a).txMem = s.txMem := rfl
@[simp] theorem State.setArmed_crc (a : Option Nat) : (s.setArmed a).crc = s.crc := rfl
@[simp] theorem State.setArmed_gpio (a : Option Nat) : (s.setArmed a).gpio = s.gpio := rfl
@[simp] theorem State.setArmed_tcon (a : Option Nat) : (s.setArmed a).tcon = s.tcon := rfl
@[simp] theorem State.setArmed_chans (a : Option Nat) : (s.setArmed a).chans = s.chans := rfl
@[simp] theorem State.setArmed_regOther (a : Option Nat) : (s.setArmed a).regOther = s.regOther := rfl
@[simp] theorem State.setArmed_irq (a : Option Nat) : (s.setArmed a).irq = s.irq := rfl
@[simp] theorem State.setArmed_bringup (a : Option Nat) : (s.setArmed a).bringup = s.bringup := rfl
@[simp] theorem State.setArmed_err (a : Option Nat) : (s.setArmed a).err = s.err := rfl
@[simp] theorem State.setArmed_panel (a : Option Nat) : (s.setArmed a).panel = s.panel := rfl
@[simp] theorem State.setArmed_ret (a : Option Nat) : (s.setArmed a).ret = s.ret := rfl
@[simp] theorem State.setArmed_trace (a : Option Nat) : (s.setArmed a).trace = s.trace := rfl
@[simp] theorem State.setArmed_allocDraws (a : Option Nat) : (s.setArmed a).allocDraws = s.allocDraws := rfl
@[simp] theorem State.setArmed_inbox (a : Option Nat) : (s.setArmed a).inbox = s.inbox := rfl

@[simp] theorem State.setPending_cfg (n : Option Nat) : (s.setPending n).cfg = s.cfg := rfl
@[simp] theorem State.setPending_producer (n : Option Nat) : (s.setPending n).producer = s.producer := rfl
@[simp] theorem State.setPending_pool_allocated (n : Option Nat) : (s.setPending n).pool.allocated = s.pool.allocated := rfl
@[simp] theorem State.setPending_pool_bufs (n : Option Nat) : (s.setPending n).pool.bufs = s.pool.bufs := rfl
@[simp] theorem State.setPending_pool_armed (n : Option Nat) : (s.setPending n).pool.armed = s.pool.armed := rfl
@[simp] theorem State.setPending_pool_pendingNext (n : Option Nat) : (s.setPending n).pool.pendingNext = n := rfl
@[simp] theorem State.setPending_pix (n : Option Nat) : (s.setPending n).pix = s.pix := rfl
@[simp] theorem State.setPending_txMem (n : Option Nat) : (s.setPending n).txMem = s.txMem := rfl
@[simp] theorem State.setPending_crc (n : Option Nat) : (s.setPending n).crc = s.crc := rfl
@[simp] theorem State.setPending_gpio (n : Option Nat) : (s.setPending n).gpio = s.gpio := rfl
@[simp] theorem State.setPending_tcon (n : Option Nat) : (s.setPending n).tcon = s.tcon := rfl
@[simp] theorem State.setPending_chans (n : Option Nat) : (s.setPending n).chans = s.chans := rfl
@[simp] theorem State.setPending_regOther (n : Option Nat) : (s.setPending n).regOther = s.regOther := rfl
@[simp] theorem State.setPending_irq (n : Option Nat) : (s.setPending n).irq = s.irq := rfl
@[simp] theorem State.setPending_bringup (n : Option Nat) : (s.setPending n).bringup = s.bringup := rfl
@[simp] theorem State.setPending_err (n : Option Nat) : (s.setPending n).err = s.err := rfl
@[simp] theorem State.setPending_panel (n : Option Nat) : (s.setPending n).panel = s.panel := rfl
@[simp] theorem State.setPending_ret (n : Option Nat) : (s.setPending n).ret = s.ret := rfl
@[simp] theorem State.setPending_trace (n : Option Nat) : (s.setPending n).trace = s.trace := rfl
@[simp] theorem State.setPending_allocDraws (n : Option Nat) : (s.setPending n).allocDraws = s.allocDraws := rfl
@[simp] theorem State.setPending_inbox (n : Option Nat) : (s.setPending n).inbox = s.inbox := rfl

@[simp] theorem State.setBringup_cfg (b : Bringup) : (s.setBringup b).cfg = s.cfg := rfl
@[simp] theorem State.setBringup_producer (b : Bringup) : (s.setBringup b).producer = s.producer := rfl
@[simp] theorem State.setBringup_pool (b : Bringup) : (s.setBringup b).pool = s.pool := rfl
@[simp] theorem State.setBringup_pix (b : Bringup) : (s.setBringup b).pix = s.pix := rfl
@[simp] theorem State.setBringup_txMem (b : Bringup) : (s.setBringup b).txMem = s.txMem := rfl
@[simp] theorem State.setBringup_crc (b : Bringup) : (s.setBringup b).crc = s.crc := rfl
@[simp] theorem State.setBringup_gpio (b : Bringup) : (s.setBringup b).gpio = s.gpio := rfl
@[simp] theorem State.setBringup_tcon (b : Bringup) : (s.setBringup b).tcon = s.tcon := rfl
@[simp] theorem State.setBringup_chans (b : Bringup) : (s.setBringup b).chans = s.chans := rfl
@[simp] theorem State.setBringup_regOther (b : Bringup) : (s.setBringup b).regOther = s.regOther := rfl
@[simp] theorem State.setBringup_irq (b : Bringup) : (s.setBringup b).irq = s.irq := rfl
@[simp] theorem State.setBringup_bringup (b : Bringup) : (s.setBringup b).bringup = b := rfl
@[simp] theorem State.setBringup_err (b : Bringup) : (s.setBringup b).err = s.err := rfl
@[simp] theorem State.setBringup_panel (b : Bringup) : (s.setBringup b).panel = s.panel := rfl
@[simp] theorem State.setBringup_ret (b : Bringup) : (s.setBringup b).ret = s.ret := rfl
@[simp] theorem State.setBringup_trace (b : Bringup) : (s.setBringup b).trace = s.trace := rfl
@[simp] theorem State.setBringup_allocDraws (b : Bringup) : (s.setBringup b).allocDraws = s.allocDraws := rfl
@[simp] theorem State.setBringup_inbox (b : Bringup) : (s.setBringup b).inbox = s.inbox := rfl

@[simp] theorem State.setCtx_cfg (x : Context) : (s.setCtx x).cfg = s.cfg := rfl
@[simp] theorem State.setCtx_producer (x : Context) : (s.setCtx x).producer = s.producer := rfl
@[simp] theorem State.setCtx_pool (x : Context) : (s.setCtx x).pool = s.pool := rfl
@[simp] theorem State.setCtx_pix (x : Context) : (s.setCtx x).pix = s.pix := rfl
@[simp] theorem State.setCtx_txMem (x : Context) : (s.setCtx x).txMem = s.txMem := rfl
@[simp] theorem State.setCtx_crc (x : Context) : (s.setCtx x).crc = s.crc := rfl
@[simp] theorem State.setCtx_gpio (x : Context) : (s.setCtx x).gpio = s.gpio := rfl
@[simp] theorem State.setCtx_tcon (x : Context) : (s.setCtx x).tcon = s.tcon := rfl
@[simp] theorem State.setCtx_chans (x : Context) : (s.setCtx x).chans = s.chans := rfl
@[simp] theorem State.setCtx_regOther (x : Context) : (s.setCtx x).regOther = s.regOther := rfl
@[simp] theorem State.setCtx_irq_attached (x : Context) : (s.setCtx x).irq.attached = s.irq.attached := rfl
@[simp] theorem State.setCtx_irq_masked (x : Context) : (s.setCtx x).irq.masked = s.irq.masked := rfl
@[simp] theorem State.setCtx_irq_ctx (x : Context) : (s.setCtx x).irq.ctx = x := rfl
@[simp] theorem State.setCtx_bringup (x : Context) : (s.setCtx x).bringup = s.bringup := rfl
@[simp] theorem State.setCtx_err (x : Context) : (s.setCtx x).err = s.err := rfl
@[simp] theorem State.setCtx_panel (x : Context) : (s.setCtx x).panel = s.panel := rfl
@[simp] theorem State.setCtx_ret (x : Context) : (s.setCtx x).ret = s.ret := rfl
@[simp] theorem State.setCtx_trace (x : Context) : (s.setCtx x).trace = s.trace := rfl
@[simp] theorem State.setCtx_allocDraws (x : Context) : (s.setCtx x).allocDraws = s.allocDraws := rfl
@[simp] theorem State.setCtx_inbox (x : Context) : (s.setCtx x).inbox = s.inbox := rfl

@[simp] theorem State.setMasked_cfg (m : Bool) : (s.setMasked m).cfg = s.cfg := rfl
@[simp] theorem State.setMasked_producer (m : Bool) : (s.setMasked m).producer = s.producer := rfl
@[simp] theorem State.setMasked_pool (m : Bool) : (s.setMasked m).pool = s.pool := rfl
@[simp] theorem State.setMasked_pix (m : Bool) : (s.setMasked m).pix = s.pix := rfl
@[simp] theorem State.setMasked_txMem (m : Bool) : (s.setMasked m).txMem = s.txMem := rfl
@[simp] theorem State.setMasked_crc (m : Bool) : (s.setMasked m).crc = s.crc := rfl
@[simp] theorem State.setMasked_gpio (m : Bool) : (s.setMasked m).gpio = s.gpio := rfl
@[simp] theorem State.setMasked_tcon (m : Bool) : (s.setMasked m).tcon = s.tcon := rfl
@[simp] theorem State.setMasked_chans (m : Bool) : (s.setMasked m).chans = s.chans := rfl
@[simp] theorem State.setMasked_regOther (m : Bool) : (s.setMasked m).regOther = s.regOther := rfl
@[simp] theorem State.setMasked_irq_attached (m : Bool) : (s.setMasked m).irq.attached = s.irq.attached := rfl
@[simp] theorem State.setMasked_irq_masked (m : Bool) : (s.setMasked m).irq.masked = m := rfl
@[simp] theorem State.setMasked_irq_ctx (m : Bool) : (s.setMasked m).irq.ctx = s.irq.ctx := rfl
@[simp] theorem State.setMasked_bringup (m : Bool) : (s.setMasked m).bringup = s.bringup := rfl
@[simp] theorem State.setMasked_err (m : Bool) : (s.setMasked m).err = s.err := rfl
@[simp] theorem State.setMasked_panel (m : Bool) : (s.setMasked m).panel = s.panel := rfl
@[simp] theorem State.setMasked_ret (m : Bool) : (s.setMasked m).ret = s.ret := rfl
@[simp] theorem State.setMasked_trace (m : Bool) : (s.setMasked m).trace = s.trace := rfl
@[simp] theorem State.setMasked_allocDraws (m : Bool) : (s.setMasked m).allocDraws = s.allocDraws := rfl
@[simp] theorem State.setMasked_inbox (m : Bool) : (s.setMasked m).inbox = s.inbox := rfl

@[simp] theorem State.setAttached_cfg (a : Bool) : (s.setAttached a).cfg = s.cfg := rfl
@[simp] theorem State.setAttached_producer (a : Bool) : (s.setAttached a).producer = s.producer := rfl
@[simp] theorem State.setAttached_pool (a : Bool) : (s.setAttached a).pool = s.pool := rfl
@[simp] theorem State.setAttached_pix (a : Bool) : (s.setAttached a).pix = s.pix := rfl
@[simp] theorem State.setAttached_txMem (a : Bool) : (s.setAttached a).txMem = s.txMem := rfl
@[simp] theorem State.setAttached_crc (a : Bool) : (s.setAttached a).crc = s.crc := rfl
@[simp] theorem State.setAttached_gpio (a : Bool) : (s.setAttached a).gpio = s.gpio := rfl
@[simp] theorem State.setAttached_tcon (a : Bool) : (s.setAttached a).tcon = s.tcon := rfl
@[simp] theorem State.setAttached_chans (a : Bool) : (s.setAttached a).chans = s.chans := rfl
@[simp] theorem State.setAttached_regOther (a : Bool) : (s.setAttached a).regOther = s.regOther := rfl
@[simp] theorem State.setAttached_irq_attached (a : Bool) : (s.setAttached a).irq.attached = a := rfl
@[simp] theorem State.setAttached_irq_masked (a : Bool) : (s.setAttached a).irq.masked = s.irq.masked := rfl
@[simp] theorem State.setAttached_irq_ctx (a : Bool) : (s.setAttached a).irq.ctx = s.irq.ctx := rfl
@[simp] theorem State.setAttached_bringup (a : Bool) : (s.setAttached a).bringup = s.bringup := rfl
@[simp] theorem State.setAttached_err (a : Bool) : (s.setAttached a).err = s.err := rfl
@[simp] theorem State.setAttached_panel (a : Bool) : (s.setAttached a).panel = s.panel := rfl
@[simp] theorem State.setAttached_ret (a : Bool) : (s.setAttached a).ret = s.ret := rfl
@[simp] theorem State.setAttached_trace (a : Bool) : (s.setAttached a).trace = s.trace := rfl
@[simp] theorem State.setAttached_allocDraws (a : Bool) : (s.setAttached a).allocDraws = s.allocDraws := rfl
@[simp] theorem State.setAttached_inbox (a : Bool) : (s.setAttached a).inbox = s.inbox := rfl

@[simp] theorem State.setPinData_cfg (w : Word) : (s.setPinData w).cfg = s.cfg := rfl
@[simp] theorem State.setPinData_producer (w : Word) : (s.setPinData w).producer = s.producer := rfl
@[simp] theorem State.setPinData_pool (w : Word) : (s.setPinData w).pool = s.pool := rfl
@[simp] theorem State.setPinData_pix (w : Word) : (s.setPinData w).pix = s.pix := rfl
@[simp] theorem State.setPinData_txMem (w : Word) : (s.setPinData w).txMem = s.txMem := rfl
@[simp] theorem State.setPinData_crc (w : Word) : (s.setPinData w).crc = s.crc := rfl
@[simp] theorem State.setPinData_gpio_pinData (w : Word) : (s.setPinData w).gpio.pinData = w := rfl
@[simp] theorem State.setPinData_gpio_pinMode (w : Word) : (s.setPinData w).gpio.pinMode = s.gpio.pinMode := rfl
@[simp] theorem State.setPinData_gpio_pins (w : Word) : (s.setPinData w).gpio.pins = s.gpio.pins := rfl
@[simp] theorem State.setPinData_tcon (w : Word) : (s.setPinData w).tcon = s.tcon := rfl
@[simp] theorem State.setPinData_chans (w : Word) : (s.setPinData w).chans = s.chans := rfl
@[simp] theorem State.setPinData_regOther (w : Word) : (s.setPinData w).regOther = s.regOther := rfl
@[simp] theorem State.setPinData_irq (w : Word) : (s.setPinData w).irq = s.irq := rfl
@[simp] theorem State.setPinData_bringup (w : Word) : (s.setPinData w).bringup = s.bringup := rfl
@[simp] theorem State.setPinData_err (w : Word) : (s.setPinData w).err = s.err := rfl
@[simp] theorem State.setPinData_panel (w : Word) : (s.setPinData w).panel = s.panel := rfl
@[simp] theorem State.setPinData_ret (w : Word) : (s.setPinData w).ret = s.ret := rfl
@[simp] theorem State.setPinData_trace (w : Word) : (s.setPinData w).trace = s.trace := rfl
@[simp] theorem State.setPinData_allocDraws (w : Word) : (s.setPinData w).allocDraws = s.allocDraws := rfl
@[simp] theorem State.setPinData_inbox (w : Word) : (s.setPinData w).inbox = s.inbox := rfl

@[simp] theorem State.setPinMode_cfg (m : PinMode) : (s.setPinMode m).cfg = s.cfg := rfl
@[simp] theorem State.setPinMode_producer (m : PinMode) : (s.setPinMode m).producer = s.producer := rfl
@[simp] theorem State.setPinMode_pool (m : PinMode) : (s.setPinMode m).pool = s.pool := rfl
@[simp] theorem State.setPinMode_pix (m : PinMode) : (s.setPinMode m).pix = s.pix := rfl
@[simp] theorem State.setPinMode_txMem (m : PinMode) : (s.setPinMode m).txMem = s.txMem := rfl
@[simp] theorem State.setPinMode_crc (m : PinMode) : (s.setPinMode m).crc = s.crc := rfl
@[simp] theorem State.setPinMode_gpio_pinData (m : PinMode) : (s.setPinMode m).gpio.pinData = s.gpio.pinData := rfl
@[simp] theorem State.setPinMode_gpio_pinMode (m : PinMode) : (s.setPinMode m).gpio.pinMode = m := rfl
@[simp] theorem State.setPinMode_gpio_pins (m : PinMode) : (s.setPinMode m).gpio.pins = s.gpio.pins := rfl
@[simp] theorem State.setPinMode_tcon (m : PinMode) : (s.setPinMode m).tcon = s.tcon := rfl
@[simp] theorem State.setPinMode_chans (m : PinMode) : (s.setPinMode m).chans = s.chans := rfl
@[simp] theorem State.setPinMode_regOther (m : PinMode) : (s.setPinMode m).regOther = s.regOther := rfl
@[simp] theorem State.setPinMode_irq (m : PinMode) : (s.setPinMode m).irq = s.irq := rfl
@[simp] theorem State.setPinMode_bringup (m : PinMode) : (s.setPinMode m).bringup = s.bringup := rfl
@[simp] theorem State.setPinMode_err (m : PinMode) : (s.setPinMode m).err = s.err := rfl
@[simp] theorem State.setPinMode_panel (m : PinMode) : (s.setPinMode m).panel = s.panel := rfl
@[simp] theorem State.setPinMode_ret (m : PinMode) : (s.setPinMode m).ret = s.ret := rfl
@[simp] theorem State.setPinMode_trace (m : PinMode) : (s.setPinMode m).trace = s.trace := rfl
@[simp] theorem State.setPinMode_allocDraws (m : PinMode) : (s.setPinMode m).allocDraws = s.allocDraws := rfl
@[simp] theorem State.setPinMode_inbox (m : PinMode) : (s.setPinMode m).inbox = s.inbox := rfl

@[simp] theorem State.setTimingValid_cfg (v : Bool) : (s.setTimingValid v).cfg = s.cfg := rfl
@[simp] theorem State.setTimingValid_producer (v : Bool) : (s.setTimingValid v).producer = s.producer := rfl
@[simp] theorem State.setTimingValid_pool (v : Bool) : (s.setTimingValid v).pool = s.pool := rfl
@[simp] theorem State.setTimingValid_pix (v : Bool) : (s.setTimingValid v).pix = s.pix := rfl
@[simp] theorem State.setTimingValid_txMem (v : Bool) : (s.setTimingValid v).txMem = s.txMem := rfl
@[simp] theorem State.setTimingValid_crc (v : Bool) : (s.setTimingValid v).crc = s.crc := rfl
@[simp] theorem State.setTimingValid_gpio (v : Bool) : (s.setTimingValid v).gpio = s.gpio := rfl
@[simp] theorem State.setTimingValid_tcon_fields (v : Bool) : (s.setTimingValid v).tcon.fields = s.tcon.fields := rfl
@[simp] theorem State.setTimingValid_tcon_known (v : Bool) : (s.setTimingValid v).tcon.known = s.tcon.known := rfl
@[simp] theorem State.setTimingValid_tcon_valid (v : Bool) : (s.setTimingValid v).tcon.valid = v := rfl
@[simp] theorem State.setTimingValid_chans (v : Bool) : (s.setTimingValid v).chans = s.chans := rfl
@[simp] theorem State.setTimingValid_regOther (v : Bool) : (s.setTimingValid v).regOther = s.regOther := rfl
@[simp] theorem State.setTimingValid_irq (v : Bool) : (s.setTimingValid v).irq = s.irq := rfl
@[simp] theorem State.setTimingValid_bringup (v : Bool) : (s.setTimingValid v).bringup = s.bringup := rfl
@[simp] theorem State.setTimingValid_err (v : Bool) : (s.setTimingValid v).err = s.err := rfl
@[simp] theorem State.setTimingValid_panel (v : Bool) : (s.setTimingValid v).panel = s.panel := rfl
@[simp] theorem State.setTimingValid_ret (v : Bool) : (s.setTimingValid v).ret = s.ret := rfl
@[simp] theorem State.setTimingValid_trace (v : Bool) : (s.setTimingValid v).trace = s.trace := rfl
@[simp] theorem State.setTimingValid_allocDraws (v : Bool) : (s.setTimingValid v).allocDraws = s.allocDraws := rfl
@[simp] theorem State.setTimingValid_inbox (v : Bool) : (s.setTimingValid v).inbox = s.inbox := rfl

@[simp] theorem State.modPin_cfg (p : Nat) (f : Pin → Pin) : (s.modPin p f).cfg = s.cfg := rfl
@[simp] theorem State.modPin_producer (p : Nat) (f : Pin → Pin) : (s.modPin p f).producer = s.producer := rfl
@[simp] theorem State.modPin_pool (p : Nat) (f : Pin → Pin) : (s.modPin p f).pool = s.pool := rfl
@[simp] theorem State.modPin_pix (p : Nat) (f : Pin → Pin) : (s.modPin p f).pix = s.pix := rfl
@[simp] theorem State.modPin_txMem (p : Nat) (f : Pin → Pin) : (s.modPin p f).txMem = s.txMem := rfl
@[simp] theorem State.modPin_crc (p : Nat) (f : Pin → Pin) : (s.modPin p f).crc = s.crc := rfl
@[simp] theorem State.modPin_gpio_pinData (p : Nat) (f : Pin → Pin) : (s.modPin p f).gpio.pinData = s.gpio.pinData := rfl
@[simp] theorem State.modPin_gpio_pinMode (p : Nat) (f : Pin → Pin) : (s.modPin p f).gpio.pinMode = s.gpio.pinMode := rfl
@[simp] theorem State.modPin_gpio_pins (p : Nat) (f : Pin → Pin) : (s.modPin p f).gpio.pins = s.gpio.pins.modify p f := rfl
@[simp] theorem State.modPin_tcon (p : Nat) (f : Pin → Pin) : (s.modPin p f).tcon = s.tcon := rfl
@[simp] theorem State.modPin_chans (p : Nat) (f : Pin → Pin) : (s.modPin p f).chans = s.chans := rfl
@[simp] theorem State.modPin_regOther (p : Nat) (f : Pin → Pin) : (s.modPin p f).regOther = s.regOther := rfl
@[simp] theorem State.modPin_irq (p : Nat) (f : Pin → Pin) : (s.modPin p f).irq = s.irq := rfl
@[simp] theorem State.modPin_bringup (p : Nat) (f : Pin → Pin) : (s.modPin p f).bringup = s.bringup := rfl
@[simp] theorem State.modPin_err (p : Nat) (f : Pin → Pin) : (s.modPin p f).err = s.err := rfl
@[simp] theorem State.modPin_panel (p : Nat) (f : Pin → Pin) : (s.modPin p f).panel = s.panel := rfl
@[simp] theorem State.modPin_ret (p : Nat) (f : Pin → Pin) : (s.modPin p f).ret = s.ret := rfl
@[simp] theorem State.modPin_trace (p : Nat) (f : Pin → Pin) : (s.modPin p f).trace = s.trace := rfl
@[simp] theorem State.modPin_allocDraws (p : Nat) (f : Pin → Pin) : (s.modPin p f).allocDraws = s.allocDraws := rfl
@[simp] theorem State.modPin_inbox (p : Nat) (f : Pin → Pin) : (s.modPin p f).inbox = s.inbox := rfl

@[simp] theorem State.modCrc_cfg (f : ClockReset → ClockReset) : (s.modCrc f).cfg = s.cfg := rfl
@[simp] theorem State.modCrc_producer (f : ClockReset → ClockReset) : (s.modCrc f).producer = s.producer := rfl
@[simp] theorem State.modCrc_pool (f : ClockReset → ClockReset) : (s.modCrc f).pool = s.pool := rfl
@[simp] theorem State.modCrc_pix (f : ClockReset → ClockReset) : (s.modCrc f).pix = s.pix := rfl
@[simp] theorem State.modCrc_txMem (f : ClockReset → ClockReset) : (s.modCrc f).txMem = s.txMem := rfl
@[simp] theorem State.modCrc_crc (f : ClockReset → ClockReset) : (s.modCrc f).crc = f s.crc := rfl
@[simp] theorem State.modCrc_gpio (f : ClockReset → ClockReset) : (s.modCrc f).gpio = s.gpio := rfl
@[simp] theorem State.modCrc_tcon (f : ClockReset → ClockReset) : (s.modCrc f).tcon = s.tcon := rfl
@[simp] theorem State.modCrc_chans (f : ClockReset → ClockReset) : (s.modCrc f).chans = s.chans := rfl
@[simp] theorem State.modCrc_regOther (f : ClockReset → ClockReset) : (s.modCrc f).regOther = s.regOther := rfl
@[simp] theorem State.modCrc_irq (f : ClockReset → ClockReset) : (s.modCrc f).irq = s.irq := rfl
@[simp] theorem State.modCrc_bringup (f : ClockReset → ClockReset) : (s.modCrc f).bringup = s.bringup := rfl
@[simp] theorem State.modCrc_err (f : ClockReset → ClockReset) : (s.modCrc f).err = s.err := rfl
@[simp] theorem State.modCrc_panel (f : ClockReset → ClockReset) : (s.modCrc f).panel = s.panel := rfl
@[simp] theorem State.modCrc_ret (f : ClockReset → ClockReset) : (s.modCrc f).ret = s.ret := rfl
@[simp] theorem State.modCrc_trace (f : ClockReset → ClockReset) : (s.modCrc f).trace = s.trace := rfl
@[simp] theorem State.modCrc_allocDraws (f : ClockReset → ClockReset) : (s.modCrc f).allocDraws = s.allocDraws := rfl
@[simp] theorem State.modCrc_inbox (f : ClockReset → ClockReset) : (s.modCrc f).inbox = s.inbox := rfl

@[simp] theorem State.modTcon_cfg (f : TimingCtl → TimingCtl) : (s.modTcon f).cfg = s.cfg := rfl
@[simp] theorem State.modTcon_producer (f : TimingCtl → TimingCtl) : (s.modTcon f).producer = s.producer := rfl
@[simp] theorem State.modTcon_pool (f : TimingCtl → TimingCtl) : (s.modTcon f).pool = s.pool := rfl
@[simp] theorem State.modTcon_pix (f : TimingCtl → TimingCtl) : (s.modTcon f).pix = s.pix := rfl
@[simp] theorem State.modTcon_txMem (f : TimingCtl → TimingCtl) : (s.modTcon f).txMem = s.txMem := rfl
@[simp] theorem State.modTcon_crc (f : TimingCtl → TimingCtl) : (s.modTcon f).crc = s.crc := rfl
@[simp] theorem State.modTcon_gpio (f : TimingCtl → TimingCtl) : (s.modTcon f).gpio = s.gpio := rfl
@[simp] theorem State.modTcon_tcon (f : TimingCtl → TimingCtl) : (s.modTcon f).tcon = f s.tcon := rfl
@[simp] theorem State.modTcon_chans (f : TimingCtl → TimingCtl) : (s.modTcon f).chans = s.chans := rfl
@[simp] theorem State.modTcon_regOther (f : TimingCtl → TimingCtl) : (s.modTcon f).regOther = s.regOther := rfl
@[simp] theorem State.modTcon_irq (f : TimingCtl → TimingCtl) : (s.modTcon f).irq = s.irq := rfl
@[simp] theorem State.modTcon_bringup (f : TimingCtl → TimingCtl) : (s.modTcon f).bringup = s.bringup := rfl
@[simp] theorem State.modTcon_err (f : TimingCtl → TimingCtl) : (s.modTcon f).err = s.err := rfl
@[simp] theorem State.modTcon_panel (f : TimingCtl → TimingCtl) : (s.modTcon f).panel = s.panel := rfl
@[simp] theorem State.modTcon_ret (f : TimingCtl → TimingCtl) : (s.modTcon f).ret = s.ret := rfl
@[simp] theorem State.modTcon_trace (f : TimingCtl → TimingCtl) : (s.modTcon f).trace = s.trace := rfl
@[simp] theorem State.modTcon_allocDraws (f : TimingCtl → TimingCtl) : (s.modTcon f).allocDraws = s.allocDraws := rfl
@[simp] theorem State.modTcon_inbox (f : TimingCtl → TimingCtl) : (s.modTcon f).inbox = s.inbox := rfl

@[simp] theorem State.forgetTiming_cfg  : (s.forgetTiming ).cfg = s.cfg := rfl
@[simp] theorem State.forgetTiming_producer  : (s.forgetTiming ).producer = s.producer := rfl
@[simp] theorem State.forgetTiming_pool  : (s.forgetTiming ).pool = s.pool := rfl
@[simp] theorem State.forgetTiming_pix  : (s.forgetTiming ).pix = s.pix := rfl
@[simp] theorem State.forgetTiming_txMem  : (s.forgetTiming ).txMem = s.txMem := rfl
@[simp] theorem State.forgetTiming_crc  : (s.forgetTiming ).crc = s.crc := rfl
@[simp] theorem State.forgetTiming_gpio  : (s.forgetTiming ).gpio = s.gpio := rfl
@[simp] theorem State.forgetTiming_tcon_fields  : (s.forgetTiming ).tcon.fields = s.tcon.fields := rfl
@[simp] theorem State.forgetTiming_tcon_known  : (s.forgetTiming ).tcon.known = TimingMarks.none := rfl
@[simp] theorem State.forgetTiming_tcon_valid  : (s.forgetTiming ).tcon.valid = false := rfl
@[simp] theorem State.forgetTiming_chans  : (s.forgetTiming ).chans = s.chans := rfl
@[simp] theorem State.forgetTiming_regOther  : (s.forgetTiming ).regOther = s.regOther := rfl
@[simp] theorem State.forgetTiming_irq  : (s.forgetTiming ).irq = s.irq := rfl
@[simp] theorem State.forgetTiming_bringup  : (s.forgetTiming ).bringup = s.bringup := rfl
@[simp] theorem State.forgetTiming_err  : (s.forgetTiming ).err = s.err := rfl
@[simp] theorem State.forgetTiming_panel  : (s.forgetTiming ).panel = s.panel := rfl
@[simp] theorem State.forgetTiming_ret  : (s.forgetTiming ).ret = s.ret := rfl
@[simp] theorem State.forgetTiming_trace  : (s.forgetTiming ).trace = s.trace := rfl
@[simp] theorem State.forgetTiming_allocDraws  : (s.forgetTiming ).allocDraws = s.allocDraws := rfl
@[simp] theorem State.forgetTiming_inbox  : (s.forgetTiming ).inbox = s.inbox := rfl

@[simp] theorem State.modProducer_cfg (f : Producer → Producer) : (s.modProducer f).cfg = s.cfg := rfl
@[simp] theorem State.modProducer_producer (f : Producer → Producer) : (s.modProducer f).producer = f s.producer := rfl
@[simp] theorem State.modProducer_pool (f : Producer → Producer) : (s.modProducer f).pool = s.pool := rfl
@[simp] theorem State.modProducer_pix (f : Producer → Producer) : (s.modProducer f).pix = s.pix := rfl
@[simp] theorem State.modProducer_txMem (f : Producer → Producer) : (s.modProducer f).txMem = s.txMem := rfl
@[simp] theorem State.modProducer_crc (f : Producer → Producer) : (s.modProducer f).crc = s.crc := rfl
@[simp] theorem State.modProducer_gpio (f : Producer → Producer) : (s.modProducer f).gpio = s.gpio := rfl
@[simp] theorem State.modProducer_tcon (f : Producer → Producer) : (s.modProducer f).tcon = s.tcon := rfl
@[simp] theorem State.modProducer_chans (f : Producer → Producer) : (s.modProducer f).chans = s.chans := rfl
@[simp] theorem State.modProducer_regOther (f : Producer → Producer) : (s.modProducer f).regOther = s.regOther := rfl
@[simp] theorem State.modProducer_irq (f : Producer → Producer) : (s.modProducer f).irq = s.irq := rfl
@[simp] theorem State.modProducer_bringup (f : Producer → Producer) : (s.modProducer f).bringup = s.bringup := rfl
@[simp] theorem State.modProducer_err (f : Producer → Producer) : (s.modProducer f).err = s.err := rfl
@[simp] theorem State.modProducer_panel (f : Producer → Producer) : (s.modProducer f).panel = s.panel := rfl
@[simp] theorem State.modProducer_ret (f : Producer → Producer) : (s.modProducer f).ret = s.ret := rfl
@[simp] theorem State.modProducer_trace (f : Producer → Producer) : (s.modProducer f).trace = s.trace := rfl
@[simp] theorem State.modProducer_allocDraws (f : Producer → Producer) : (s.modProducer f).allocDraws = s.allocDraws := rfl
@[simp] theorem State.modProducer_inbox (f : Producer → Producer) : (s.modProducer f).inbox = s.inbox := rfl

@[simp] theorem writeTxPair_cfg (b : Buffer) (j : Nat) (pair : Word × Word) : (writeTxPair b j pair s).cfg = s.cfg := rfl
@[simp] theorem writeTxPair_producer (b : Buffer) (j : Nat) (pair : Word × Word) : (writeTxPair b j pair s).producer = s.producer := rfl
@[simp] theorem writeTxPair_pool (b : Buffer) (j : Nat) (pair : Word × Word) : (writeTxPair b j pair s).pool = s.pool := rfl
@[simp] theorem writeTxPair_pix (b : Buffer) (j : Nat) (pair : Word × Word) : (writeTxPair b j pair s).pix = s.pix := rfl
@[simp] theorem writeTxPair_txMem (b : Buffer) (j : Nat) (pair : Word × Word) : (writeTxPair b j pair s).txMem = write32 s.cfg.endian (write32 s.cfg.endian s.txMem (txAddr b j) pair.1) (txAddr b (j + 1)) pair.2 := rfl
@[simp] theorem writeTxPair_crc (b : Buffer) (j : Nat) (pair : Word × Word) : (writeTxPair b j pair s).crc = s.crc := rfl
@[simp] theorem writeTxPair_gpio (b : Buffer) (j : Nat) (pair : Word × Word) : (writeTxPair b j pair s).gpio = s.gpio := rfl
@[simp] theorem writeTxPair_tcon (b : Buffer) (j : Nat) (pair : Word × Word) : (writeTxPair b j pair s).tcon = s.tcon := rfl
@[simp] theorem writeTxPair_chans (b : Buffer) (j : Nat) (pair : Word × Word) : (writeTxPair b j pair s).chans = s.chans := rfl
@[simp] theorem writeTxPair_regOther (b : Buffer) (j : Nat) (pair : Word × Word) : (writeTxPair b j pair s).regOther = s.regOther := rfl
@[simp] theorem writeTxPair_irq (b : Buffer) (j : Nat) (pair : Word × Word) : (writeTxPair b j pair s).irq = s.irq := rfl
@[simp] theorem writeTxPair_bringup (b : Buffer) (j : Nat) (pair : Word × Word) : (writeTxPair b j pair s).bringup = s.bringup := rfl
@[simp] theorem writeTxPair_err (b : Buffer) (j : Nat) (pair : Word × Word) : (writeTxPair b j pair s).err = s.err := rfl
@[simp] theorem writeTxPair_panel (b : Buffer) (j : Nat) (pair : Word × Word) : (writeTxPair b j pair s).panel = s.panel := rfl
@[simp] theorem writeTxPair_ret (b : Buffer) (j : Nat) (pair : Word × Word) : (writeTxPair b j pair s).ret = s.ret := rfl
@[simp] theorem writeTxPair_trace (b : Buffer) (j : Nat) (pair : Word × Word) : (writeTxPair b j pair s).trace = s.trace := rfl
@[simp] theorem writeTxPair_allocDraws (b : Buffer) (j : Nat) (pair : Word × Word) : (writeTxPair b j pair s).allocDraws = s.allocDraws := rfl
@[simp] theorem writeTxPair_inbox (b : Buffer) (j : Nat) (pair : Word × Word) : (writeTxPair b j pair s).inbox = s.inbox := rfl

/-! ### A register write (20_memory R66): what it leaves alone -/

@[simp] theorem setField_cfg (f : RegField) (v : Nat) : (setField f v s).cfg = s.cfg := by cases f <;> rfl
@[simp] theorem setField_producer (f : RegField) (v : Nat) : (setField f v s).producer = s.producer := by cases f <;> rfl
@[simp] theorem setField_pool (f : RegField) (v : Nat) : (setField f v s).pool = s.pool := by cases f <;> rfl
@[simp] theorem setField_pix (f : RegField) (v : Nat) : (setField f v s).pix = s.pix := by cases f <;> rfl
@[simp] theorem setField_txMem (f : RegField) (v : Nat) : (setField f v s).txMem = s.txMem := by cases f <;> rfl
@[simp] theorem setField_regOther (f : RegField) (v : Nat) : (setField f v s).regOther = s.regOther := by cases f <;> rfl
@[simp] theorem setField_irq (f : RegField) (v : Nat) : (setField f v s).irq = s.irq := by cases f <;> rfl
@[simp] theorem setField_bringup (f : RegField) (v : Nat) : (setField f v s).bringup = s.bringup := by cases f <;> rfl
@[simp] theorem setField_err (f : RegField) (v : Nat) : (setField f v s).err = s.err := by cases f <;> rfl
@[simp] theorem setField_panel (f : RegField) (v : Nat) : (setField f v s).panel = s.panel := by cases f <;> rfl
@[simp] theorem setField_ret (f : RegField) (v : Nat) : (setField f v s).ret = s.ret := by cases f <;> rfl
@[simp] theorem setField_allocDraws (f : RegField) (v : Nat) : (setField f v s).allocDraws = s.allocDraws := by cases f <;> rfl
@[simp] theorem setField_inbox (f : RegField) (v : Nat) : (setField f v s).inbox = s.inbox := by cases f <;> rfl
@[simp] theorem setField_trace (f : RegField) (v : Nat) : (setField f v s).trace = s.trace := by cases f <;> rfl
@[simp] theorem setField_gpio_pinMode (f : RegField) (v : Nat) : (setField f v s).gpio.pinMode = s.gpio.pinMode := by cases f <;> rfl
@[simp] theorem setField_tcon_valid (f : RegField) (v : Nat) : (setField f v s).tcon.valid = s.tcon.valid := by cases f <;> rfl

@[simp] theorem regWrite_cfg (f : RegField) (v : Nat) : (regWrite f v s).cfg = s.cfg := setField_cfg s f v
@[simp] theorem regWrite_producer (f : RegField) (v : Nat) : (regWrite f v s).producer = s.producer := setField_producer s f v
@[simp] theorem regWrite_pool (f : RegField) (v : Nat) : (regWrite f v s).pool = s.pool := setField_pool s f v
@[simp] theorem regWrite_pix (f : RegField) (v : Nat) : (regWrite f v s).pix = s.pix := setField_pix s f v
@[simp] theorem regWrite_txMem (f : RegField) (v : Nat) : (regWrite f v s).txMem = s.txMem := setField_txMem s f v
@[simp] theorem regWrite_regOther (f : RegField) (v : Nat) : (regWrite f v s).regOther = s.regOther := setField_regOther s f v
@[simp] theorem regWrite_irq (f : RegField) (v : Nat) : (regWrite f v s).irq = s.irq := setField_irq s f v
@[simp] theorem regWrite_bringup (f : RegField) (v : Nat) : (regWrite f v s).bringup = s.bringup := setField_bringup s f v
@[simp] theorem regWrite_err (f : RegField) (v : Nat) : (regWrite f v s).err = s.err := setField_err s f v
@[simp] theorem regWrite_panel (f : RegField) (v : Nat) : (regWrite f v s).panel = s.panel := setField_panel s f v
@[simp] theorem regWrite_ret (f : RegField) (v : Nat) : (regWrite f v s).ret = s.ret := setField_ret s f v
@[simp] theorem regWrite_allocDraws (f : RegField) (v : Nat) : (regWrite f v s).allocDraws = s.allocDraws := setField_allocDraws s f v
@[simp] theorem regWrite_inbox (f : RegField) (v : Nat) : (regWrite f v s).inbox = s.inbox := setField_inbox s f v
@[simp] theorem regWrite_gpio_pinMode (f : RegField) (v : Nat) : (regWrite f v s).gpio.pinMode = s.gpio.pinMode := setField_gpio_pinMode s f v
@[simp] theorem regWrite_tcon_valid (f : RegField) (v : Nat) : (regWrite f v s).tcon.valid = s.tcon.valid := setField_tcon_valid s f v

@[simp] theorem regWrite_trace (f : RegField) (v : Nat) :
    (regWrite f v s).trace = s.trace ++ regAccesses f v s := by
  simp [regWrite]

@[simp] theorem regWrites_cfg (fs : List (RegField × Nat)) : (regWrites fs s).cfg = s.cfg := by
  induction fs generalizing s with
  | nil => rfl
  | cons x fs ih => rw [regWrites, ih, regWrite_cfg]

@[simp] theorem regWrites_producer (fs : List (RegField × Nat)) : (regWrites fs s).producer = s.producer := by
  induction fs generalizing s with
  | nil => rfl
  | cons x fs ih => rw [regWrites, ih, regWrite_producer]

@[simp] theorem regWrites_pool (fs : List (RegField × Nat)) : (regWrites fs s).pool = s.pool := by
  induction fs generalizing s with
  | nil => rfl
  | cons x fs ih => rw [regWrites, ih, regWrite_pool]

@[simp] theorem regWrites_pix (fs : List (RegField × Nat)) : (regWrites fs s).pix = s.pix := by
  induction fs generalizing s with
  | nil => rfl
  | cons x fs ih => rw [regWrites, ih, regWrite_pix]

@[simp] theorem regWrites_txMem (fs : List (RegField × Nat)) : (regWrites fs s).txMem = s.txMem := by
  induction fs generalizing s with
  | nil => rfl
  | cons x fs ih => rw [regWrites, ih, regWrite_txMem]

@[simp] theorem regWrites_regOther (fs : List (RegField × Nat)) : (regWrites fs s).regOther = s.regOther := by
  induction fs generalizing s with
  | nil => rfl
  | cons x fs ih => rw [regWrites, ih, regWrite_regOther]

@[simp] theorem regWrites_irq (fs : List (RegField × Nat)) : (regWrites fs s).irq = s.irq := by
  induction fs generalizing s with
  | nil => rfl
  | cons x fs ih => rw [regWrites, ih, regWrite_irq]

@[simp] theorem regWrites_bringup (fs : List (RegField × Nat)) : (regWrites fs s).bringup = s.bringup := by
  induction fs generalizing s with
  | nil => rfl
  | cons x fs ih => rw [regWrites, ih, regWrite_bringup]

@[simp] theorem regWrites_err (fs : List (RegField × Nat)) : (regWrites fs s).err = s.err := by
  induction fs generalizing s with
  | nil => rfl
  | cons x fs ih => rw [regWrites, ih, regWrite_err]

@[simp] theorem regWrites_panel (fs : List (RegField × Nat)) : (regWrites fs s).panel = s.panel := by
  induction fs generalizing s with
  | nil => rfl
  | cons x fs ih => rw [regWrites, ih, regWrite_panel]

@[simp] theorem regWrites_ret (fs : List (RegField × Nat)) : (regWrites fs s).ret = s.ret := by
  induction fs generalizing s with
  | nil => rfl
  | cons x fs ih => rw [regWrites, ih, regWrite_ret]

@[simp] theorem regWrites_allocDraws (fs : List (RegField × Nat)) : (regWrites fs s).allocDraws = s.allocDraws := by
  induction fs generalizing s with
  | nil => rfl
  | cons x fs ih => rw [regWrites, ih, regWrite_allocDraws]

@[simp] theorem regWrites_inbox (fs : List (RegField × Nat)) : (regWrites fs s).inbox = s.inbox := by
  induction fs generalizing s with
  | nil => rfl
  | cons x fs ih => rw [regWrites, ih, regWrite_inbox]

@[simp] theorem regWrites_gpio_pinMode (fs : List (RegField × Nat)) : (regWrites fs s).gpio.pinMode = s.gpio.pinMode := by
  induction fs generalizing s with
  | nil => rfl
  | cons x fs ih => rw [regWrites, ih, regWrite_gpio_pinMode]

@[simp] theorem regWrites_tcon_valid (fs : List (RegField × Nat)) : (regWrites fs s).tcon.valid = s.tcon.valid := by
  induction fs generalizing s with
  | nil => rfl
  | cons x fs ih => rw [regWrites, ih, regWrite_tcon_valid]

end Sys2Proof.Machine
end

