-- ==== Sys2Proof/Laws/Ops.lean ====
section
/-! SUPPORT. What each shared operation can do: if it answers a next state, then the facts its guards
checked hold and the state is the one named. Later proofs cite these and do not unfold the operations. -/

namespace Sys2Proof.Machine

/-! ### Sequencing -/

@[simp] theorem andThen_next (s : State) (f : State → Out) : andThen (.next s) f = f s := rfl
@[simp] theorem andThen_fault (r : Fault) (f : State → Out) : andThen (.fault r) f = .fault r := rfl
@[simp] theorem andThen_refused (r : Refusal) (f : State → Out) : andThen (.refused r) f = .refused r := rfl

theorem andThen_eq_next {o : Out} {f : State → Out} {t : State} :
    andThen o f = .next t ↔ ∃ u, o = .next u ∧ f u = .next t := by
  cases o <;> simp [andThen]

@[simp] theorem returning_next (r : Ret) (s : State) : returning r (.next s) = .next (s.setRet r) := rfl

theorem returning_eq_next {r : Ret} {o : Out} {t : State} :
    returning r o = .next t ↔ ∃ u, o = .next u ∧ t = u.setRet r := by
  cases o <;> simp [returning, andThen, eq_comm]

theorem withChan_of {s : State} {c : Nat} {ch : Channel} (h : s.chans[c]? = some ch) (f : Channel → Out) :
    withChan s c f = f ch := by
  simp [withChan, h]

theorem withChan_eq_next {s : State} {c : Nat} {f : Channel → Out} {t : State} :
    withChan s c f = .next t ↔ ∃ ch, s.chans[c]? = some ch ∧ f ch = .next t := by
  unfold withChan
  cases s.chans[c]? <;> simp

theorem ifIndexed_of {k : Nat} (h : k < nPool) (o : Out) : ifIndexed k o = o := by simp [ifIndexed, h]

theorem ifIndexed_eq_next {k : Nat} {o : Out} {t : State} : ifIndexed k o = .next t ↔ k < nPool ∧ o = .next t := by
  unfold ifIndexed
  split <;> simp_all

theorem withBuf_of {s : State} {k : Nat} {b : Buffer} (hk : k < nPool) (ha : s.pool.allocated = true)
    (hb : s.pool.bufs[k]? = some b) (f : Buffer → Out) : withBuf s k f = f b := by
  simp [withBuf, ifIndexed, hk, ha, hb]

theorem withBuf_eq_next {s : State} {k : Nat} {f : Buffer → Out} {t : State} :
    withBuf s k f = .next t ↔
      k < nPool ∧ s.pool.allocated = true ∧ ∃ b, s.pool.bufs[k]? = some b ∧ f b = .next t := by
  unfold withBuf
  rw [ifIndexed_eq_next]
  split
  · cases s.pool.bufs[k]? <;> simp_all
  · simp_all

theorem processOnly_of {s : State} (h : s.irq.ctx = .process) (o : Out) : processOnly s o = o := by
  simp [processOnly, h]

theorem processOnly_eq_next {s : State} {o : Out} {t : State} :
    processOnly s o = .next t ↔ s.irq.ctx = .process ∧ o = .next t := by
  unfold processOnly
  cases s.irq.ctx <;> simp

theorem bringupFrom_of {s : State} {b : Bringup} (hx : s.irq.ctx = .process) (hb : s.bringup = b)
    (he : s.err = none) (o : Out) : bringupFrom b s o = o := by
  simp [bringupFrom, processOnly_of hx, hb, he]

theorem bringupFrom_eq_next {s : State} {b : Bringup} {o : Out} {t : State} :
    bringupFrom b s o = .next t ↔ s.irq.ctx = .process ∧ s.bringup = b ∧ s.err = none ∧ o = .next t := by
  unfold bringupFrom
  rw [processOnly_eq_next]
  by_cases hb : s.bringup = b
  · cases he : s.err <;> simp [hb]
  · simp [hb]

/-! ### Pins -/

/-- A `PINDATA` write that goes on: the word is canonical and its latch determined (R92, R118, R272). -/
theorem pinWrite_eq_next {w : Word} {s t : State} :
    pinWrite w s = .next t ↔
      canonical s.cfg w = true ∧ latchUndetermined w s = false ∧ t = pinWritten w s := by
  unfold pinWrite
  cases canonical s.cfg w <;> cases latchUndetermined w s <;> simp [eq_comm]

/-- A pair is emitted by its two writes, in order, with the pins in `Data` mode (R121). -/
theorem emitWords_eq_next {lo hi : Word} {s t : State} :
    emitWords lo hi s = .next t ↔
      isPair s.cfg lo hi = true ∧ s.gpio.pinMode = .data ∧ ∃ u, pinWrite lo s = .next u ∧ pinWrite hi u = .next t := by
  unfold emitWords
  cases isPair s.cfg lo hi <;> cases s.gpio.pinMode <;> simp [andThen_eq_next]

/-- A `PINDATA` write changes the register, the panel's view and the trace alone (R30, R118). -/
theorem pinWritten_frame (w : Word) (s : State) :
    { pinWritten w s with gpio := s.gpio, panel := s.panel, trace := s.trace } = s := rfl

@[simp] theorem pinWritten_cfg (w : Word) (s : State) : (pinWritten w s).cfg = s.cfg := rfl
@[simp] theorem pinWritten_chans (w : Word) (s : State) : (pinWritten w s).chans = s.chans := rfl
@[simp] theorem pinWritten_pinMode (w : Word) (s : State) : (pinWritten w s).gpio.pinMode = s.gpio.pinMode := rfl
@[simp] theorem pinWritten_pinData (w : Word) (s : State) : (pinWritten w s).gpio.pinData = w := rfl

/-! ### Register access -/

/-- A written field has its value in its bits and every other bit as it was (20_memory R66). -/
theorem insertBits_getLsbD (l : Loc) (v : Nat) (w : Word) (n : Nat) (hn : n < 32) :
    (insertBits l v w).getLsbD n =
      if l.lsb ≤ n ∧ n < l.lsb + l.width then v.testBit (n - l.lsb) else w.getLsbD n := by
  simp only [insertBits, BitVec.getLsbD_or, BitVec.getLsbD_and, BitVec.getLsbD_not, BitVec.getLsbD_shiftLeft,
    BitVec.getLsbD_ofNat, Nat.testBit_two_pow_sub_one, hn, decide_true, Bool.true_and]
  by_cases h1 : n < l.lsb
  · simp [h1, show ¬ (l.lsb ≤ n ∧ n < l.lsb + l.width) by omega]
  · by_cases h2 : n < l.lsb + l.width
    · simp [h1, show (l.lsb ≤ n ∧ n < l.lsb + l.width) by omega, show n - l.lsb < l.width by omega,
        show n - l.lsb < 32 by omega]
    · simp [h1, show ¬ (l.lsb ≤ n ∧ n < l.lsb + l.width) by omega, show ¬ n - l.lsb < l.width by omega]

/-- A write of 0 clears its field. -/
theorem clearedWithin_insertBits (l : Loc) (w : Word) : clearedWithin l w (insertBits l 0 w) := by
  intro n hn
  rw [insertBits_getLsbD _ _ _ _ hn, Nat.zero_testBit]

/-- A write of the whole register replaces it. -/
theorem insertBits_whole (off : Nat) (v w : Word) : insertBits ⟨off, 0, 32⟩ v.toNat w = v := by
  apply BitVec.eq_of_getLsbD_eq
  intro n hn
  rw [insertBits_getLsbD _ _ _ _ hn, if_pos ⟨Nat.zero_le n, by simpa using hn⟩]
  rfl

@[simp] theorem fieldsWritten_append (as bs : List Access) :
    fieldsWritten (as ++ bs) = fieldsWritten as ++ fieldsWritten bs := by
  simp [fieldsWritten]

@[simp] theorem fieldsWritten_regAccesses (f : RegField) (v : Nat) (s : State) :
    fieldsWritten (regAccesses f v s) = [f] := rfl

@[simp] theorem regAccesses_length (f : RegField) (v : Nat) (s : State) : (regAccesses f v s).length = 2 := rfl

/-- The fields of a list, each given its value, with no access recorded. -/
def setFields : List (RegField × Nat) → State → State
  | [], s => s
  | (f, v) :: fs, s => setFields fs (setField f v s)

theorem setFields_append (fs gs : List (RegField × Nat)) (s : State) :
    setFields (fs ++ gs) s = setFields gs (setFields fs s) := by
  induction fs generalizing s with
  | nil => rfl
  | cons x fs ih => exact ih _

theorem setField_log (f : RegField) (v : Nat) (as : List Access) (s : State) :
    setField f v (s.log as) = (setField f v s).log as := by
  cases f <;> rfl

theorem setFields_log (fs : List (RegField × Nat)) (as : List Access) (s : State) :
    setFields fs (s.log as) = (setFields fs s).log as := by
  induction fs generalizing s with
  | nil => rfl
  | cons x fs ih => rw [setFields, setField_log, ih]; rfl

/-- The writes of a list of fields give each its value and nothing else but the trace, where they stand in their
order, two accesses each (R66). -/
theorem regWrites_eq (fs : List (RegField × Nat)) (s : State) :
    ∃ as, regWrites fs s = (setFields fs s).log as ∧ fieldsWritten as = fs.map (·.1) ∧ as.length = 2 * fs.length := by
  induction fs generalizing s with
  | nil => exact ⟨[], by simp [regWrites, setFields, State.log, fieldsWritten]⟩
  | cons x fs ih =>
    obtain ⟨as, h1, h2, h3⟩ := ih (regWrite x.1 x.2 s)
    refine ⟨regAccesses x.1 x.2 s ++ as, ?_, by simp [h2], ?_⟩
    · rw [regWrites, h1, regWrite, setFields_log, setFields]
      simp [State.log]
    · simp only [List.length_append, regAccesses_length, h3, List.length_cons]
      omega

theorem modChan_of {s : State} {c : Nat} {ch : Channel} (h : s.chans[c]? = some ch) (f : Channel → Channel) :
    s.modChan c f = s.setChan c (f ch) := by
  simp [State.modChan, State.setChan, List.modify_eq_set_getElem?, h]

/-! ### DMA channels -/

/-- The channel's registers after a configuration with buffer `b` (R187, R196). -/
def configuredChannel (cfg : Config) (b : Buffer) (ch : Channel) : Channel :=
  { ch with
    src := BitVec.ofNat 32 b.physBase
    dst := BitVec.ofNat 32 (RegMap.pinDataAddr cfg.regmap)
    len := BitVec.ofNat 32 frameBytes
    ctrl := cfg.ctrlWord
    configured := true }

/-- A channel's source register holds the physical base of a buffer in its reach (R52, R187). -/
theorem toNat_physBase {b : Buffer} (h : b.inReach = true) : (BitVec.ofNat 32 b.physBase).toNat = b.physBase := by
  have h' : b.physBase + frameBytes ≤ 2 ^ 32 := of_decide_eq_true h
  have hf : frameBytes = 614408 := rfl
  rw [BitVec.toNat_ofNat]
  omega

/-- The four writes of a configuration change their channel and the trace alone (R187). -/
theorem configureWrites_eq {s : State} {c : Nat} {ch : Channel} (h : s.chans[c]? = some ch) (b : Buffer) :
    ∃ as, (regWrites (configureWrites s.cfg c b) s).markConfigured c =
        (s.setChan c (configuredChannel s.cfg b ch)).log as ∧
      fieldsWritten as = [.src c, .dst c, .len c, .ctrl c] ∧ as.length = 8 := by
  obtain ⟨as, h1, h2, h3⟩ := regWrites_eq (configureWrites s.cfg c b) s
  refine ⟨as, ?_, by simpa [configureWrites] using h2, by simpa [configureWrites] using h3⟩
  obtain ⟨hlt, rfl⟩ := List.getElem?_eq_some_iff.mp h
  rw [h1]
  simp [configureWrites, setFields, setField, State.modChan, State.setChan, State.log, State.markConfigured,
    List.modify_eq_set_getElem?, hlt, configuredChannel]

/-- The mask after a configuration: cleared by its `unmask`, otherwise as it was (R219). -/
def maskAfter (s : State) : Bool := if maskNeeded s then false else s.irq.masked

/-- A configuration changes its channel, the trace and, by its bracket, the mask alone (R187, R219). -/
theorem configuredState_eq {s : State} {c : Nat} {ch : Channel} (h : s.chans[c]? = some ch) (b : Buffer) :
    ∃ as, configuredState c b s = ((s.setMasked (maskAfter s)).setChan c (configuredChannel s.cfg b ch)).log as ∧
      fieldsWritten as = [.src c, .dst c, .len c, .ctrl c] ∧
      (maskNeeded s = true → as.head? = some .mask ∧ as.getLast? = some .unmask) ∧
      (maskNeeded s = false → as.length = 8) := by
  unfold configuredState maskAfter
  cases maskNeeded s
  · obtain ⟨as, h1, h2, h3⟩ := configureWrites_eq h b
    exact ⟨as, h1, h2, by simp, fun _ => h3⟩
  · obtain ⟨as, h1, h2, -⟩ := configureWrites_eq (s := (s.setMasked true).log [.mask]) h b
    refine ⟨.mask :: as ++ [.unmask], ?_, ?_, ?_, by simp⟩
    · simp only [if_true]
      rw [h1]
      simp [State.log, State.setMasked, State.setChan]
    · simp only [List.cons_append, fieldsWritten, List.filterMap_cons, Access.field?, List.filterMap_append]
      simpa [fieldsWritten] using h2
    · exact fun _ => ⟨rfl, by rw [List.getLast?_concat]⟩

/-- A configuration that goes on (R187): the channel is stopped and the buffer fully encoded. -/
theorem configure_eq_next {c k : Nat} {s t : State} :
    configure c k s = .next t ↔
      ∃ ch b, s.chans[c]? = some ch ∧ k < nPool ∧ s.pool.allocated = true ∧ s.pool.bufs[k]? = some b ∧
        ch.enable = false ∧ s.producer.encoding ≠ some k ∧ b.encoded = true ∧ t = configuredState c b s := by
  unfold configure
  rw [withChan_eq_next]
  constructor
  · rintro ⟨ch, hc, h⟩
    rw [withBuf_eq_next] at h
    obtain ⟨hk, ha, b, hb, h⟩ := h
    refine ⟨ch, b, hc, hk, ha, hb, ?_⟩
    revert h
    cases ch.enable <;> cases b.encoded <;> by_cases he : s.producer.encoding = some k <;> simp [he, eq_comm]
  · rintro ⟨ch, b, hc, hk, ha, hb, h1, h2, h3, rfl⟩
    exact ⟨ch, hc, by rw [withBuf_of hk ha hb]; simp [h1, h2, h3]⟩

/-- A configuration issued as an operation goes on in interrupt context alone (R226, R267). -/
theorem handlerOnly_eq_next {s : State} {o : Out} {t : State} :
    handlerOnly s o = .next t ↔ s.irq.ctx = .interrupt ∧ o = .next t := by
  unfold handlerOnly
  cases s.irq.ctx <;> cases o <;> simp [andThen]

/-- The state after a start of a stopped channel (R188). -/
theorem startedState_eq {s : State} {c : Nat} {ch : Channel} (h : s.chans[c]? = some ch) :
    ∃ as, startedState c s = (s.setChan c { ch with enable := true, dmaPos := 0 }).log as ∧
      fieldsWritten as = [.enable c] := by
  obtain ⟨hlt, rfl⟩ := List.getElem?_eq_some_iff.mp h
  refine ⟨_, ?_, fieldsWritten_regAccesses (.enable c) 1 (s.modChan c fun ch => { ch with dmaPos := 0 })⟩
  rw [startedState, regWrite]
  congr 1
  simp [setField, State.modChan, State.setChan, List.modify_eq_set_getElem?, hlt]

/-- A start that goes on (R188, R270): the channel runs and nothing changes, or it is stopped, configured,
on a valid path, with no completion awaiting the handler in process context, and runs from word 0. -/
theorem start_eq_next {c : Nat} {s t : State} :
    start c s = .next t ↔
      ∃ ch, s.chans[c]? = some ch ∧
        ((ch.enable = true ∧ t = s) ∨
          (ch.enable = false ∧ pathValid s = true ∧ ch.configured = true ∧
            (ch.irqPending = true → s.irq.ctx = .interrupt) ∧ t = startedState c s)) := by
  unfold start
  rw [withChan_eq_next]
  refine exists_congr fun ch => and_congr_right fun _ => ?_
  cases ch.enable <;> cases pathValid s <;> cases ch.configured <;> cases ch.irqPending <;>
    cases s.irq.ctx <;> simp [eq_comm]

/-- A stop clears its channel's enable bit (R189). -/
theorem stop_eq_next {c : Nat} {s t : State} :
    stop c s = .next t ↔ ∃ ch, s.chans[c]? = some ch ∧
      t = (s.setChan c { ch with enable := false }).log (regAccesses (.enable c) 0 s) := by
  unfold stop
  rw [withChan_eq_next]
  refine exists_congr fun ch => and_congr_right fun h => ?_
  rw [regWrite, setField, modChan_of h]
  simp [eq_comm]

/-- An acknowledge clears its channel's completion status (R190). -/
theorem acknowledge_eq_next {c : Nat} {s t : State} :
    acknowledge c s = .next t ↔ ∃ ch, s.chans[c]? = some ch ∧
      t = (s.setChan c { ch with irqPending := false }).log (regAccesses (.status c) 0 s) := by
  unfold acknowledge
  rw [withChan_eq_next]
  refine exists_congr fun ch => and_congr_right fun h => ?_
  rw [regWrite, setField, modChan_of h]
  simp [eq_comm]

/-- A re-arm is its three parts in order (R191). -/
theorem rearm_eq_next {c k : Nat} {s t : State} :
    rearm c k s = .next t ↔
      ∃ u v, acknowledge c s = .next u ∧ configure c k u = .next v ∧ start c v = .next t := by
  simp only [rearm, andThen_eq_next]
  constructor
  · rintro ⟨u, hu, v, hv, ht⟩
    exact ⟨u, v, hu, hv, ht⟩
  · rintro ⟨u, v, hu, hv, ht⟩
    exact ⟨u, hu, v, hv, ht⟩

/-! ### An operation in two halves (20_memory R53 (d)) -/

/-- An operation is begun in process context, and its read half is all that happens (R189, R190, R158). -/
theorem beginTorn_eq_next {op : TornOp} {s t : State} :
    beginTorn op s = .next t ↔
      s.irq.ctx = .process ∧ (∃ ch, s.chans[op.channel]? = some ch) ∧ t = readHalf op s := by
  unfold beginTorn
  rw [processOnly_eq_next, withChan_eq_next]
  simp [eq_comm]

/-- The read half changes the producer and the trace alone. -/
theorem readHalf_frame (op : TornOp) (s : State) :
    { readHalf op s with producer := s.producer, trace := s.trace } = s := rfl

/-- The write-back gives the named field alone its value; besides it the producer and the trace alone change (R22, R28,
R66). -/
theorem writeHalf_eq (h : HalfWrite) (s : State) :
    ∃ as, writeHalf h s = ((setField h.op.field 0 s).modProducer fun p => { p with halfWrite := none }).log as ∧
      fieldsWritten as = [h.op.field] := ⟨_, rfl, rfl⟩

/-- What is left of a `DMA_STOP` or a `DMA_ACK` is the write-back. -/
theorem finishTorn_of {h : HalfWrite} (hh : h.op ≠ .teardown) (s : State) :
    finishTorn h s = .next ((writeHalf h s).setRet .void) := by
  unfold finishTorn
  cases ho : h.op <;> simp_all

/-- What is left of a `TEARDOWN` is what a whole one does after its first `DMA_STOP` (R158). -/
theorem finishTorn_teardown {h : HalfWrite} (hh : h.op = .teardown) (s : State) :
    finishTorn h s = andThen (stopAll 1 (s.chans.length - 1) (writeHalf h s)) teardownRest := by
  unfold finishTorn
  rw [hh]

/-- A `TEARDOWN` that is not torn: the same, with the first `DMA_STOP` whole (R158). -/
theorem execTeardown_eq {s : State} {ch : Channel} (hx : s.irq.ctx = .process) (hc : s.chans[0]? = some ch) :
    execTeardown s = andThen (stopAll 1 (s.chans.length - 1) (regWrite (.enable 0) 0 s)) teardownRest := by
  obtain ⟨hlt, -⟩ := List.getElem?_eq_some_iff.mp hc
  unfold execTeardown
  rw [processOnly_of hx, show s.chans.length = s.chans.length - 1 + 1 by omega, stopAll, stop, withChan_of hc, andThen_next,
    Nat.add_sub_cancel]

/-! ### Bring-up -/

/-- The four writes of `BRG_CLOCKS` (R151). -/
theorem clockWrites_eq (s : State) :
    ∃ as, regWrites [(.rstDma, 0), (.rstTcon, 0), (.clkDma, 1), (.clkTcon, 1)] s =
        (s.modCrc fun _ => ⟨true, true, false, false⟩).log as ∧
      fieldsWritten as = [.rstDma, .rstTcon, .clkDma, .clkTcon] := by
  obtain ⟨as, h1, h2, -⟩ := regWrites_eq [(.rstDma, 0), (.rstTcon, 0), (.clkDma, 1), (.clkTcon, 1)] s
  exact ⟨as, by rw [h1]; simp [setFields, setField, State.modCrc], h2⟩

/-- The two writes of `TEARDOWN` (R158). -/
theorem clocksOff_eq (s : State) :
    ∃ as, regWrites [(.clkDma, 0), (.clkTcon, 0)] s =
        (s.modCrc fun x => { x with clkDma := false, clkTcon := false }).log as ∧
      fieldsWritten as = [.clkDma, .clkTcon] := by
  obtain ⟨as, h1, h2, -⟩ := regWrites_eq [(.clkDma, 0), (.clkTcon, 0)] s
  exact ⟨as, by rw [h1]; simp [setFields, setField, State.modCrc], h2⟩

/-- The pins after their configuration: the named ones hold the configured codes (42_timing_and_bringup R152). -/
def pinsConfigured (c : Config) (ps : List Nat) (pins : List Pin) : List Pin :=
  pins.mapIdx fun p pin =>
    if p ∈ ps then ⟨c.regmap.busFunction, c.regmap.driveStrength, c.regmap.pull⟩ else pin

theorem setFields_pins (c : Config) (ps : List Nat) (s : State) :
    setFields (ps.flatMap fun p => [(.pinFunction p, c.regmap.busFunction), (.pinDrive p, c.regmap.driveStrength),
      (.pinPull p, c.regmap.pull)]) s = { s with gpio := { s.gpio with pins := pinsConfigured c ps s.gpio.pins } } := by
  induction ps generalizing s with
  | nil =>
    have : pinsConfigured c [] s.gpio.pins = s.gpio.pins := List.ext_getElem? fun q => by simp [pinsConfigured]
    rw [this]
    rfl
  | cons p ps ih =>
    rw [List.flatMap_cons, setFields_append, ih]
    have : pinsConfigured c ps (((s.gpio.pins.modify p fun x => { x with function := c.regmap.busFunction }).modify p
        fun x => { x with drive := c.regmap.driveStrength }).modify p fun x => { x with pull := c.regmap.pull }) =
        pinsConfigured c (p :: ps) s.gpio.pins := by
      apply List.ext_getElem?
      intro q
      simp only [pinsConfigured, List.getElem?_mapIdx, List.getElem?_modify, List.mem_cons]
      cases s.gpio.pins[q]? with
      | none => rfl
      | some pin => by_cases h : p = q <;> simp [h, eq_comm]
    rw [← this]
    rfl

/-- The writes of `BRG_PINS` configure the named pins (R152). -/
theorem pinWrites_eq (c : Config) (s : State) :
    ∃ as, regWrites (pinWrites c) s =
        ({ s with gpio := { s.gpio with pins := pinsConfigured c (namedPins c) s.gpio.pins } } : State).log as ∧
      fieldsWritten as = (pinWrites c).map (·.1) := by
  obtain ⟨as, h1, h2, -⟩ := regWrites_eq (pinWrites c) s
  exact ⟨as, by rw [h1, pinWrites, setFields_pins], h2⟩

/-- The writes of `TCON_CFG` store the record (R154). -/
theorem timingWrites_eq (t : Timing) (s : State) :
    ∃ as, regWrites (timingWrites t) s = (s.modTcon fun x => ⟨t, .all, x.valid⟩).log as ∧
      fieldsWritten as = (timingWrites t).map (·.1) := by
  obtain ⟨as, h1, h2, -⟩ := regWrites_eq (timingWrites t) s
  exact ⟨as, by rw [h1]; simp only [timingWrites, setFields, setField, State.modTcon, TimingMarks.all], h2⟩

/-! ### The pool -/

/-- Freeing (R185, R266): nothing is armed, running or attached; afterwards every buffer is gone, and a pool that was
not allocated is as it was. -/
theorem freePool_eq_next {s t : State} :
    freePool s = .next t ↔ freeHazard s = false ∧
      ((s.pool.allocated = false ∧ t = s) ∨
        (s.pool.allocated = true ∧
          t = { s with pool := { s.pool with allocated := false, bufs := [] }, txMem := [] })) := by
  unfold freePool
  cases s.pool.allocated <;> cases freeHazard s <;> simp [eq_comm]

/-- Eight answers that all succeed give eight regions of one frame each, in order. -/
theorem allocRegions_eq_ok {draws : List AllocDraw} {n k : Nat} {bs : List Buffer}
    (h : allocRegions draws k n = .ok bs) :
    bs.length = n ∧ ∀ j < n, ∃ l p, allocAnswer draws (k + j) = some (l, p) ∧ bs[j]? = some ⟨l, p, bufWords, false⟩ := by
  induction n generalizing k bs with
  | zero =>
    simp only [allocRegions, Except.ok.injEq] at h
    subst h
    simp
  | succ n ih =>
    simp only [allocRegions] at h
    split at h
    · cases h
    · rename_i l p ha
      split at h
      · rename_i bs' hb
        cases h
        obtain ⟨hl, hj⟩ := ih hb
        refine ⟨by simp [hl], fun j hjn => ?_⟩
        cases j with
        | zero => exact ⟨l, p, ha, rfl⟩
        | succ j =>
          obtain ⟨l', p', h1, h2⟩ := hj j (by omega)
          exact ⟨l', p', by rw [show k + (j + 1) = k + 1 + j by omega]; exact h1, by simpa using h2⟩
      · cases h

/-- An allocation that fails names the first request whose answer is a failure (R180). -/
theorem allocRegions_eq_error {draws : List AllocDraw} {n k i : Nat} (h : allocRegions draws k n = .error i) :
    k ≤ i ∧ i < k + n ∧ allocAnswer draws i = none ∧ ∀ j, k ≤ j → j < i → allocAnswer draws j ≠ none := by
  induction n generalizing k with
  | zero => simp [allocRegions] at h
  | succ n ih =>
    simp only [allocRegions] at h
    split at h
    · rename_i ha
      cases h
      exact ⟨Nat.le_refl _, by omega, ha, fun j h1 h2 => by omega⟩
    · rename_i l p ha
      split at h
      · cases h
      · rename_i j hb
        cases h
        obtain ⟨h1, h2, h3, h4⟩ := ih hb
        refine ⟨by omega, by omega, h3, fun j hj1 hj2 => ?_⟩
        by_cases hjk : j = k
        · subst hjk; simp [ha]
        · exact h4 j (by omega) hj2

end Sys2Proof.Machine
end

