-- ==== Sys2Proof/Laws/PerInstr.lean ====
section
/-! SUPPORT. Facts about every instruction as syntax, one lemma for each constructor. -/

namespace Sys2Proof.Laws.OpselTag

/-- A TransactionWord is stored as a word and has no tag (30_encoding R80); an operation is stored as its tag, which is not
zero, and then its operand bytes (R96). -/
def Statement (i : Instr) : Prop :=
  ∀ c : Config,
    (opsel i = none ∧ ∃ w, encode c i = .word w) ∨
      ∃ tag, opsel i = some tag ∧ tag ≠ 0 ∧ encode c i = .bytes (tag :: encodeOperands i)

theorem cmdLo (v : Pixel) : Statement (.cmdLo v) := fun _ => .inl ⟨rfl, _, rfl⟩
theorem cmdHi (v : Pixel) : Statement (.cmdHi v) := fun _ => .inl ⟨rfl, _, rfl⟩
theorem datLo (v : Pixel) : Statement (.datLo v) := fun _ => .inl ⟨rfl, _, rfl⟩
theorem datHi (v : Pixel) : Statement (.datHi v) := fun _ => .inl ⟨rfl, _, rfl⟩
theorem encCmd (b : Byte) : Statement (.encCmd b) := fun _ => .inr ⟨_, rfl, by decide, rfl⟩
theorem encPix (p : Pixel) : Statement (.encPix p) := fun _ => .inr ⟨_, rfl, by decide, rfl⟩
theorem decWord (w : Word) : Statement (.decWord w) := fun _ => .inr ⟨_, rfl, by decide, rfl⟩
theorem emitPair (lo hi : Word) : Statement (.emitPair lo hi) := fun _ => .inr ⟨_, rfl, by decide, rfl⟩
theorem encFrame (k : Nat) : Statement (.encFrame k) := fun _ => .inr ⟨_, rfl, by decide, rfl⟩
theorem brgClocks : Statement .brgClocks := fun _ => .inr ⟨_, rfl, by decide, rfl⟩
theorem brgPins : Statement .brgPins := fun _ => .inr ⟨_, rfl, by decide, rfl⟩
theorem tconCfg (t : TimingOperand) : Statement (.tconCfg t) := fun _ => .inr ⟨_, rfl, by decide, rfl⟩
theorem brgInit (items : PanelOperand) : Statement (.brgInit items) := fun _ => .inr ⟨_, rfl, by decide, rfl⟩
theorem brgArm (c k : Nat) : Statement (.brgArm c k) := fun _ => .inr ⟨_, rfl, by decide, rfl⟩
theorem teardown : Statement .teardown := fun _ => .inr ⟨_, rfl, by decide, rfl⟩
theorem poolAlloc : Statement .poolAlloc := fun _ => .inr ⟨_, rfl, by decide, rfl⟩
theorem poolBuf (i : Nat) : Statement (.poolBuf i) := fun _ => .inr ⟨_, rfl, by decide, rfl⟩
theorem poolFree : Statement .poolFree := fun _ => .inr ⟨_, rfl, by decide, rfl⟩
theorem dmaConfigure (c k : Nat) : Statement (.dmaConfigure c k) := fun _ => .inr ⟨_, rfl, by decide, rfl⟩
theorem dmaStart (c : Nat) : Statement (.dmaStart c) := fun _ => .inr ⟨_, rfl, by decide, rfl⟩
theorem dmaStop (c : Nat) : Statement (.dmaStop c) := fun _ => .inr ⟨_, rfl, by decide, rfl⟩
theorem dmaAck (c : Nat) : Statement (.dmaAck c) := fun _ => .inr ⟨_, rfl, by decide, rfl⟩
theorem dmaRearm (c k : Nat) : Statement (.dmaRearm c k) := fun _ => .inr ⟨_, rfl, by decide, rfl⟩
theorem dmaXfer (c : Nat) : Statement (.dmaXfer c) := fun _ => .inr ⟨_, rfl, by decide, rfl⟩
theorem publishNext (k : Nat) : Statement (.publishNext k) := fun _ => .inr ⟨_, rfl, by decide, rfl⟩
theorem queryInflight : Statement .queryInflight := fun _ => .inr ⟨_, rfl, by decide, rfl⟩
theorem irqFrame (c : Nat) : Statement (.irqFrame c) := fun _ => .inr ⟨_, rfl, by decide, rfl⟩

end Sys2Proof.Laws.OpselTag
end

