-- ==== Sys2Proof/Laws/Step.lean ====
section
/-! SUPPORT. What a step is in each case, so that a proof about a step cites these and does not unfold `step`. -/

namespace Sys2Proof.Machine

/-- Under a configuration the model does not admit every step is refused (00_scope R8, 42_timing_and_bringup R153). -/
theorem step_refused {s : State} {r : Refusal} (hc : configProblem s.cfg = some r) : step s = .refused r := by
  unfold step ifAdmitted
  rw [hc]
  cases s.inbox <;> rfl

/-- With an event first in the inbox the step runs it. -/
theorem step_event {s : State} {e : Event} {rest : List Event} (hc : configProblem s.cfg = none)
    (hi : s.inbox = e :: rest) : step s = runEvent e rest s := by
  unfold step ifAdmitted
  rw [hi, hc]

/-- With an empty inbox the agents move by themselves. -/
theorem step_idle {s : State} (hc : configProblem s.cfg = none) (hi : s.inbox = []) : step s = idleStep s := by
  unfold step ifAdmitted
  rw [hi, hc]

/-- The event that holds a code fetches it. -/
theorem runEvent_code (code : Code) (rest : List Event) (s : State) :
    runEvent (codeEvent code) rest s = runCode code rest s := by
  cases code <;> rfl

/-- A code that decodes to an operation that need not wait runs it. -/
theorem runCode_free {code : Code} {s : State} {i : Instr} {tail : List Byte} (rest : List Event)
    (hd : decode s.cfg code = .ok (i, tail)) (hf : producerBusy s = false ∨ isProducers i = false) :
    runCode code rest s = exec i { s with inbox := afterFetch tail rest } := by
  unfold runCode
  rw [hd]
  rcases hf with h | h <;> simp only [h, Bool.false_and, Bool.and_false, Bool.false_eq_true, if_false]

/-- An operation of a busy producer waits, and the producer moves. -/
theorem runCode_busy {code : Code} {s : State} {i : Instr} {tail : List Byte} (rest : List Event)
    (hd : decode s.cfg code = .ok (i, tail)) (hb : producerBusy s = true) (hi : isProducers i = true) :
    runCode code rest s = producerMoves s := by
  unfold runCode
  rw [hd]
  simp only [hb, hi, Bool.and_self, if_true]

/-- A completion that can be delivered is the next step of a machine with nothing in its inbox (60_exceptions R220). -/
theorem idleStep_deliverable {s : State} {c : Nat} (h : deliverable s = some c) : idleStep s = exec (.irqFrame c) s := by
  unfold idleStep
  rw [h]

/-- With none, a producer that has work takes its step (41_frame_ops R135, 60_exceptions R232). -/
theorem idleStep_producer {s : State} (h : deliverable s = none) (hw : producerHasWork s = true) :
    idleStep s = producerWork s := by
  unfold idleStep
  rw [h]
  simp only [hw, if_true]

/-- The producer's step of its `ENC_FRAME` in progress (41_frame_ops R135). -/
theorem producerWork_encoding {s : State} (h : s.producer.encoding.isSome = true) : producerWork s = encodeStep s := by
  unfold producerWork
  simp only [h, if_true]

/-- The producer's step when it owes a publish (60_exceptions R232). -/
theorem producerWork_publish {s : State} {k : Nat} (h : s.producer.encoding = none)
    (hk : s.producer.thenPublish = some k) :
    producerWork s = exec (.publishNext k) (s.modProducer fun p => { p with thenPublish := none }) := by
  unfold producerWork
  simp only [h, hk, Option.isSome_none, Bool.false_eq_true, if_false]

/-- The producer's step when it has an operation to finish (20_memory R53 (d)). -/
theorem producerWork_half {s : State} {w : HalfWrite} (h : s.producer.encoding = none)
    (hp : s.producer.thenPublish = none) (hw : s.producer.halfWrite = some w) :
    producerWork s = finishTorn w s := by
  unfold producerWork
  simp only [h, hp, hw, Option.isSome_none, Bool.false_eq_true, if_false]

/-- The producer's step when a notification waits (60_exceptions R232). -/
theorem producerWork_note {s : State} {n : Nat} {rest : List Nat} (h : s.producer.encoding = none)
    (hp : s.producer.thenPublish = none) (hw : s.producer.halfWrite = none) (ha : s.pool.allocated = true)
    (hn : s.producer.notes = n :: rest) : producerWork s = takeUp n rest s := by
  unfold producerWork nextNote
  simp only [h, hp, hw, ha, hn, Option.isSome_none, Bool.false_eq_true, if_false, if_true]

/-- An action of the producer that is no code is taken when the producer is free, and else the producer moves. -/
theorem whenFree_of {s : State} (h : producerBusy s = false) (o : Out) : whenFree s o = o := by
  simp [whenFree, h]

theorem whenFree_busy {s : State} (h : producerBusy s = true) (o : Out) : whenFree s o = producerMoves s := by
  simp [whenFree, h]

end Sys2Proof.Machine
end

