-- ==== Sys2Proof/Laws/Words.lean ====
section
/-! SUPPORT. The bits of the words of 30_encoding, as the pin map places them: what the statements about
encoding and decoding a word rest on. -/

namespace Sys2Proof

/-- A pin map that is well formed, as facts about its positions (R8). -/
structure PinMapFacts (c : Config) : Prop where
  aRange : c.aLsb + 8 ≤ 32
  bRange : c.bLsb + 8 ≤ 32
  sRange : c.strobePos < 32
  dRange : c.dcPos < 32
  ab : c.aLsb + 8 ≤ c.bLsb ∨ c.bLsb + 8 ≤ c.aLsb
  sa : c.strobePos < c.aLsb ∨ c.aLsb + 8 ≤ c.strobePos
  sb : c.strobePos < c.bLsb ∨ c.bLsb + 8 ≤ c.strobePos
  da : c.dcPos < c.aLsb ∨ c.aLsb + 8 ≤ c.dcPos
  db : c.dcPos < c.bLsb ∨ c.bLsb + 8 ≤ c.dcPos
  sd : c.strobePos ≠ c.dcPos
  base : c.base &&& fieldMask c = 0

theorem pinMapOk_iff (c : Config) : pinMapOk c = true ↔ PinMapFacts c := by
  simp only [pinMapOk, Bool.and_eq_true, decide_eq_true_eq]
  constructor
  · rintro ⟨⟨⟨⟨⟨⟨⟨⟨⟨⟨h1, h2⟩, h3⟩, h4⟩, h5⟩, h6⟩, h7⟩, h8⟩, h9⟩, h10⟩, h11⟩
    exact ⟨h1, h2, h3, h4, h5, h6, h7, h8, h9, h10, h11⟩
  · rintro ⟨h1, h2, h3, h4, h5, h6, h7, h8, h9, h10, h11⟩
    exact ⟨⟨⟨⟨⟨⟨⟨⟨⟨⟨h1, h2⟩, h3⟩, h4⟩, h5⟩, h6⟩, h7⟩, h8⟩, h9⟩, h10⟩, h11⟩

/-- Bit `i` of an eight-bit mask placed at `n`. -/
theorem byteMask_getLsbD (n i : Nat) :
    (0xFF#32 <<< n).getLsbD i = (decide (i < 32) && decide (n ≤ i) && decide (i < n + 8)) := by
  rw [BitVec.getLsbD_shiftLeft]
  by_cases h : n ≤ i
  · have h255 : ∀ k < 32, (0xFF#32).getLsbD k = decide (k < 8) := by decide
    by_cases hi : i < 32
    · rw [h255 (i - n) (by omega)]
      have : (decide (i - n < 8)) = decide (i < n + 8) := by
        apply decide_eq_decide.mpr; omega
      simp [hi, h, this, Nat.not_lt.mpr h]
    · simp [hi]
  · simp [h, Nat.lt_of_not_le h]

/-- Bit `i` of a single bit placed at `n`. -/
theorem oneBit_getLsbD (n i : Nat) : (1#32 <<< n).getLsbD i = (decide (i < 32) && decide (i = n)) := by
  rw [BitVec.getLsbD_shiftLeft]
  by_cases h : i < n
  · have : ¬ i = n := by omega
    simp [h, this]
  · by_cases h' : i = n
    · subst h'; simp
    · have : ¬ i - n = 0 := by omega
      simp only [BitVec.getLsbD_one, h', this, decide_false, Bool.and_false]

/-- Bit `i` of a marker or strobe bit placed at `n`. -/
theorem ofBool_getLsbD (b : Bool) (n i : Nat) :
    ((BitVec.ofBool b).setWidth 32 <<< n).getLsbD i = (decide (i < 32) && decide (i = n) && b) := by
  cases b with
  | false =>
    simp
  | true =>
    have : (BitVec.ofBool true).setWidth 32 = 1#32 := by decide
    rw [this, oneBit_getLsbD, Bool.and_true]

/-- Bit `i` of the spread of a value (R88). -/
theorem spread_getLsbD (c : Config) (v : Pixel) (i : Nat) (hi : i < 32) :
    (spread c v).getLsbD i =
      ((decide (c.aLsb ≤ i) && decide (i < c.aLsb + 8) && v.getLsbD (i - c.aLsb)) ||
        (decide (c.bLsb ≤ i) && decide (i < c.bLsb + 8) && v.getLsbD (8 + (i - c.bLsb)))) := by
  simp only [spread, BitVec.getLsbD_or, BitVec.getLsbD_shiftLeft, BitVec.getLsbD_setWidth,
    BitVec.getLsbD_extractLsb', Nat.zero_add]
  congr 1
  · by_cases h : c.aLsb ≤ i
    · by_cases h' : i < c.aLsb + 8
      · have h1 : i - c.aLsb < 32 := by omega
        have h2 : i - c.aLsb < 8 := by omega
        simp [hi, h, h', h1, h2, Nat.not_lt.mpr h]
      · have h2 : ¬ i - c.aLsb < 8 := by omega
        simp [h', h2]
    · simp [h, Nat.lt_of_not_le h]
  · by_cases h : c.bLsb ≤ i
    · by_cases h' : i < c.bLsb + 8
      · have h1 : i - c.bLsb < 32 := by omega
        have h2 : i - c.bLsb < 8 := by omega
        simp [hi, h, h', h1, h2, Nat.not_lt.mpr h]
      · have h2 : ¬ i - c.bLsb < 8 := by omega
        simp [h', h2]
    · simp [h, Nat.lt_of_not_le h]

/-- Bit `i` of the field mask (R92). -/
theorem fieldMask_getLsbD (c : Config) (i : Nat) (hi : i < 32) :
    (fieldMask c).getLsbD i =
      ((decide (c.aLsb ≤ i) && decide (i < c.aLsb + 8)) || (decide (c.bLsb ≤ i) && decide (i < c.bLsb + 8)) ||
        decide (i = c.strobePos) || decide (i = c.dcPos)) := by
  simp only [fieldMask, strobeMask, BitVec.getLsbD_or, byteMask_getLsbD, oneBit_getLsbD, hi, decide_true, Bool.true_and]

/-- `BASE` is 0 on the named parts (R8). -/
theorem PinMapFacts.base_getLsbD {c : Config} (h : PinMapFacts c) (i : Nat)
    (hm : (fieldMask c).getLsbD i = true) : c.base.getLsbD i = false := by
  have := congrArg (·.getLsbD i) h.base
  simpa [hm] using this

/-- Bit `i` of the strobe-low word (R110). -/
theorem encWord_fst_getLsbD (c : Config) (dc : Bool) (v : Pixel) (i : Nat) (hi : i < 32) :
    (encWord c dc v).1.getLsbD i = (c.base.getLsbD i || (spread c v).getLsbD i || (decide (i = c.dcPos) && dc)) := by
  simp only [encWord, BitVec.getLsbD_or, ofBool_getLsbD, hi, decide_true, Bool.true_and]

/-- Bit `i` of the strobe-high word (R110). -/
theorem encWord_snd_getLsbD (c : Config) (dc : Bool) (v : Pixel) (i : Nat) (hi : i < 32) :
    (encWord c dc v).2.getLsbD i = ((encWord c dc v).1.getLsbD i || decide (i = c.strobePos)) := by
  simp only [encWord, strobeMask, BitVec.getLsbD_or, oneBit_getLsbD, hi, decide_true, Bool.true_and]

/-- Bit `i` of an unspread value (R89): field A below, field B above. -/
theorem unspread_getLsbD (c : Config) (w : Word) (i : Nat) (hi : i < 16) :
    (unspread c w).getLsbD i = if i < 8 then w.getLsbD (c.aLsb + i) else w.getLsbD (c.bLsb + (i - 8)) := by
  simp only [unspread, BitVec.getLsbD_append, BitVec.getLsbD_extractLsb']
  split
  · rename_i h
    simp only [h, decide_true, Bool.true_and]
  · have : i - 8 < 8 := by omega
    simp only [this, decide_true, Bool.true_and]

end Sys2Proof
end

