-- ==== Sys2Proof/Tests/Slice0.lean ====
section
/-! SUPPORT. The model's own tests: the smoke test of WellFormed, the decoding of a written-out word for every
constructor (30_encoding R90, R96; the operand bytes by notes/assumptions/4.md), small meanings whose expected values are
spec/95_test_vectors.md's or calculated by hand from the rules, and, for every statement with hypotheses,
states that meet them. -/

namespace Sys2Proof.Machine.Slice0Tests

/-! ### WellFormed refuses what does not fit -/

theorem test_wf_encFrame : (Instr.encFrame 256).wf = false := by decide
theorem test_wf_brgArm : (Instr.brgArm 256 0).wf = false ∧ (Instr.brgArm 0 256).wf = false := by decide
theorem test_wf_poolBuf : (Instr.poolBuf 256).wf = false := by decide
theorem test_wf_dmaConfigure : (Instr.dmaConfigure 256 0).wf = false ∧ (Instr.dmaConfigure 0 256).wf = false := by
  decide
theorem test_wf_dmaStart : (Instr.dmaStart 256).wf = false := by decide
theorem test_wf_dmaStop : (Instr.dmaStop 256).wf = false := by decide
theorem test_wf_dmaAck : (Instr.dmaAck 256).wf = false := by decide
theorem test_wf_dmaRearm : (Instr.dmaRearm 256 0).wf = false ∧ (Instr.dmaRearm 0 256).wf = false := by decide
theorem test_wf_dmaXfer : (Instr.dmaXfer 256).wf = false := by decide
theorem test_wf_publishNext : (Instr.publishNext 256).wf = false := by decide
theorem test_wf_irqFrame : (Instr.irqFrame 256).wf = false := by decide

/-! ### Decoding: a written-out code for every constructor -/

/-- `decode` under the reference binding. -/
def dec (code : Code) : Option (Instr × List Byte) := (decode Config.reference code).toOption

theorem test_decode_words :
    dec (.word 0b00000000000000000000000001011000#32) = some (.cmdLo 0x2C, []) ∧
    dec (.word 0b00000000000001000000000001011000#32) = some (.cmdHi 0x2C, []) ∧
    dec (.word 0b00000000000010111110000000000000#32) = some (.datLo 0xF800, []) ∧
    dec (.word 0b00000000000011000000000000111110#32) = some (.datHi 0x001F, []) := by
  decide
theorem test_decode_nonCanonical :
    dec (.word 0x00000001#32) = none ∧ dec (.word 0x00000200#32) = none ∧ dec (.word 0x00100000#32) = none := by decide
theorem test_decode_wordOps :
    dec (.bytes [0x01, 0x2C]) = some (.encCmd 0x2C, []) ∧ dec (.bytes [0x02, 0x1F, 0x00]) = some (.encPix 0x001F, []) ∧
    dec (.bytes [0x03, 0x58, 0x00, 0x04, 0x00]) = some (.decWord 0x00040058, []) ∧
    dec (.bytes [0x04, 0x58, 0x00, 0x00, 0x00, 0x58, 0x00, 0x04, 0x00]) = some (.emitPair 0x00000058 0x00040058, []) ∧
    dec (.bytes [0x05, 0x07]) = some (.encFrame 7, []) := by
  decide
theorem test_decode_bringup :
    dec (.bytes [0x10]) = some (.brgClocks, []) ∧ dec (.bytes [0x11]) = some (.brgPins, []) ∧
    dec (.bytes [0x12]) = some (.tconCfg .timing, []) ∧ dec (.bytes [0x13, 0x14]) = some (.brgInit .panelInit, [0x14]) ∧
    dec (.bytes [0x14, 0, 3]) = some (.brgArm 0 3, []) ∧ dec (.bytes [0x1F]) = some (.teardown, []) := by
  decide
theorem test_decode_pool :
    dec (.bytes [0x20]) = some (.poolAlloc, []) ∧ dec (.bytes [0x21, 3]) = some (.poolBuf 3, []) ∧
    dec (.bytes [0x22]) = some (.poolFree, []) ∧ dec (.bytes [0x40, 1]) = some (.publishNext 1, []) ∧
    dec (.bytes [0x41]) = some (.queryInflight, []) := by
  decide
theorem test_decode_dma :
    dec (.bytes [0x30, 0, 2]) = some (.dmaConfigure 0 2, []) ∧ dec (.bytes [0x31, 0]) = some (.dmaStart 0, []) ∧
    dec (.bytes [0x32, 0]) = some (.dmaStop 0, []) ∧ dec (.bytes [0x33, 0]) = some (.dmaAck 0, []) ∧
    dec (.bytes [0x34, 0, 1]) = some (.dmaRearm 0 1, []) ∧ dec (.bytes [0x35, 0]) = some (.dmaXfer 0, []) ∧
    dec (.bytes [0x50, 0, 0x10]) = some (.irqFrame 0, [0x10]) := by
  decide
theorem test_decode_refused :
    dec (.bytes [0x00]) = none ∧ dec (.bytes [0x06]) = none ∧ dec (.bytes [0xFF]) = none ∧ dec (.bytes [0x04, 0]) = none ∧
    dec (.bytes [0x30, 0]) = none ∧ dec (.bytes []) = none := by
  decide
theorem test_decodeTableWord :
    decodeTableWord 32 0x000C0000 = some (.datHi 0) ∧ decodeTableWord 8 0x12 = some (.tconCfg .timing) ∧
    decodeTableWord 8 0x50 = some (.irqFrame 0) := by
  decide

/-! ### Small states -/

/-- Eight buffers of the fixed capacity; number `e` is marked encoded. -/
def bufs (e : Option Nat) : List Buffer :=
  (List.range 8).map fun k => ⟨1048576 * k, 1048576 * k, bufWords, decide (e = some k)⟩

/-- Reset, with a pool. -/
def pooled (e : Option Nat) : State := { State.reset with pool := ⟨true, bufs e, none, none⟩ }

/-- A bring-up state with the clocks on, the pins in `Data` mode and the timing generator configured. -/
def ready (b : Bringup) (e : Option Nat) : State :=
  { pooled e with
    crc := ⟨true, true, false, false⟩
    gpio := { State.reset.gpio with pinMode := .data }
    tcon := ⟨⟨320, 240, 0, 0, 0, 0, 1⟩, .all, true⟩
    bringup := b
    irq := ⟨true, false, .process⟩ }

/-- A configured channel streaming buffer 0. -/
def chan (enable pending : Bool) (pos : Nat) : Channel :=
  ⟨0, BitVec.ofNat 32 (RegMap.pinDataAddr RegMap.reference), 614408, 0, enable, pending, pos, true, false⟩

/-- Armed with buffer 0. -/
def steady (ch : Channel) (next : Option Nat) (e : Option Nat) : State :=
  { ready .armed e with
    pool := ⟨true, bufs e, some 0, next⟩
    chans := [ch]
    panel := ⟨true, true, []⟩ }

/-- The next state has this property. -/
def nextIs (o : Out) (p : State → Bool) : Bool :=
  match o with
  | .next s => p s
  | .fault _ => false
  | .refused _ => false

/-- The step ends in this fault. -/
def faultIs (o : Out) (r : Fault) : Bool :=
  match o with
  | .next _ => false
  | .fault f => decide (f = r)
  | .refused _ => false

/-- The step ends in this refusal. -/
def refusalIs (o : Out) (r : Refusal) : Bool :=
  match o with
  | .next _ => false
  | .fault _ => false
  | .refused f => decide (f = r)

/-! ### Meanings (expected values: spec/95_test_vectors.md and the rules' worked examples) -/

-- R113, R110: worked examples
theorem test_encWord : encWord Config.reference true 0xFFFF = (0x000BFDFE, 0x000FFDFE) ∧
    encWord Config.reference true 0xF800 = (0x000BE000, 0x000FE000) ∧ encWord Config.reference true 0 = (0x80000, 0xC0000) := by
  decide
-- R50: memory images
theorem test_bytes : (List.range 4).map (wordByte .little 0x000BFDFE) = [0xFE, 0xFD, 0x0B, 0x00] ∧
    (List.range 2).map (pixelByte .little 0xF800) = [0x00, 0xF8] ∧
    (List.range 4).map (wordByte .big 0x000BFDFE) = [0x00, 0x0B, 0xFD, 0xFE] := by
  decide
-- R111: worked example
theorem test_encCmd : nextIs (exec (.encCmd 0x2C) State.reset) (fun t => t.ret = .pair 0x00000058 0x00040058) := by decide
-- R113: worked example
theorem test_encPix : nextIs (exec (.encPix 0xFFFF) State.reset) (fun t => t.ret = .pair 0x000BFDFE 0x000FFDFE) := by
  decide
-- R114: worked examples
theorem test_decWord : nextIs (exec (.decWord 0x000FFDFE) State.reset) (fun t => t.ret = .fields true true 0xFFFF) ∧
    nextIs (exec (.decWord 0x00040058) State.reset) (fun t => t.ret = .fields false true 0x002C) := by
  decide
-- 2.6: strobe unspecified before the pair
theorem test_emitPair : nextIs (exec (.emitPair 0x00000058 0x00040058) (ready .pinsConfigured none))
    (fun t => t.panel = ⟨true, true, [⟨false, 0x2C⟩]⟩ && t.gpio.pinData = 0x00040058) := by
  decide
theorem test_emitPair_signal : faultIs (exec (.emitPair 0x00000058 0x00040058) State.reset) .pinsNotData := by decide
-- 2.6: a lone high word
theorem test_cmdHi_low_before :
    nextIs (exec (.cmdHi 0x2C) { ready .armed none with panel := ⟨false, true, []⟩ })
      (fun t => t.panel = ⟨true, true, [⟨false, 0x2C⟩]⟩) := by
  decide
theorem test_cmdHi_unspecified : faultIs (exec (.cmdHi 0x2C) (ready .armed none)) .strobeUnspecified := by decide
-- 2.6: a falling edge, and high after high
theorem test_cmdLo : nextIs (exec (.cmdLo 0x2C) { ready .armed none with panel := ⟨true, true, []⟩ })
    (fun t => t.panel = ⟨false, true, []⟩ && t.gpio.pinData = 0x00000058) := by
  decide
theorem test_datHi : nextIs (exec (.datHi 0x2C) { ready .armed none with panel := ⟨true, true, []⟩ })
    (fun t => t.panel = ⟨true, true, []⟩ && t.gpio.pinData = 0x000C0058) := by
  decide
theorem test_datLo_signal : nextIs (exec (.datLo 0xFFFF) State.reset)
    (fun t => t.panel = State.reset.panel && t.gpio.pinData = 0x000BFDFE) := by
  decide
-- 2.7: the command pair
theorem test_encFrame : nextIs (exec (.encFrame 7) (pooled (some 7))) (fun t => t.producer = ⟨some 7, 0, [], none, none⟩ &&
    memRead t.txMem (1048576 * 7) = some 0x58 && memRead t.txMem (1048576 * 7 + 6) = some 0x04) := by
  decide
-- 2.7: 76799 pixels
theorem test_encFrame_geometry :
    nextIs (exec (.encFrame 0) { pooled none with pix := ⟨0, 153598, []⟩ })
      (fun t => t.err = some (.geometryMismatch (.bytes 153598) (.bytes 153600)) && t.txMem = []) := by
  decide
-- 2.7: the pixel at column 5, row 2 is pixel 645; its words are 1292 and 1293, at byte offset 5168
theorem test_encodeStep :
    nextIs (encodeStep { pooled none with producer := ⟨some 0, 645, [], none, none⟩, pix := ⟨0, 153600, [(1290, 0x1F), (1291, 0x00)]⟩ })
      (fun t => t.txMem = [(5168, 0x3E), (5169, 0x00), (5170, 0x08), (5171, 0x00), (5172, 0x3E), (5173, 0x00), (5174, 0x0C),
        (5175, 0x00)] && t.producer = ⟨some 0, 646, [], none, none⟩) := by
  decide
-- 2.8
theorem test_brgClocks : nextIs (exec .brgClocks State.reset)
    (fun t => t.crc = ⟨true, true, false, false⟩ && t.bringup = .clocksEnabled) := by
  decide
theorem test_brgClocks_twice : refusalIs (exec .brgClocks (ready .armed none)) .wrongBringupState := by decide
theorem test_brgPins : nextIs (exec .brgPins { State.reset with bringup := .clocksEnabled })
    (fun t => t.gpio.pinMode = .data && t.gpio.pins[19]? = some ⟨1, 1, 1⟩ && t.gpio.pins[9]? = some ⟨0, 0, 0⟩) := by
  decide
/-- The state `s` under the configuration `c`. -/
def under (c : Config) (s : State) : State := { s with cfg := c }
theorem test_tconCfg : nextIs (exec (.tconCfg .timing) (under { Config.reference with timing := ⟨320, 240, 1, 2, 3, 4, 5⟩ }
      { ready .pinsConfigured none with tcon := ⟨⟨0, 0, 0, 0, 0, 0, 0⟩, .none, false⟩ }))
    (fun t => t.tcon = ⟨⟨320, 240, 1, 2, 3, 4, 5⟩, .all, true⟩ && t.bringup = .timingConfigured) := by
  decide
theorem test_tconCfg_swapped :
    nextIs (exec (.tconCfg .timing) (under { Config.reference with timing := ⟨240, 320, 0, 0, 0, 0, 1⟩ } (ready .pinsConfigured none)))
      (fun t => t.err = some (.geometryMismatch (.active 240 320) (.active 320 240)) && t.bringup = .pinsConfigured) := by
  decide
theorem test_brgInit :
    nextIs (exec (.brgInit .panelInit) (under { Config.reference with panelInit := [⟨false, 0x11⟩, ⟨true, 0x05⟩] } (ready .timingConfigured none)))
      (fun t => t.panel.latched = [⟨false, 0x11⟩, ⟨true, 0x05⟩] && t.gpio.pinData = 0x000C000A) := by
  decide
theorem test_brgArm : nextIs (exec (.brgArm 0 0) (ready .streamingCommand (some 0)))
    (fun t => t.chans = [chan true false 0] && t.pool.armed = some 0 && t.bringup = .armed) := by
  decide
theorem test_brgArm_unencoded : faultIs (exec (.brgArm 0 0) (ready .streamingCommand none)) .bufferNotEncoded := by decide
theorem test_teardown : nextIs (exec .teardown (steady (chan true false 9) (some 1) (some 0)))
    (fun t => t.chans = [chan false false 9] && t.pool = ⟨false, [], none, none⟩ && t.crc = ⟨false, false, false, false⟩ &&
      t.gpio.pinMode = .data && t.irq.attached = false && t.bringup = .unconfigured) := by
  decide
-- 2.9
theorem test_poolAlloc : nextIs (exec .poolAlloc State.reset)
    (fun t => t.pool.allocated && t.pool.bufs.length = 8 && t.pool.bufs.all fun b => !b.encoded) := by
  decide
theorem test_poolAlloc_fails :
    nextIs (exec .poolAlloc { State.reset with allocDraws := allocDrawsReset.take 5 ++ [none] })
      (fun t => t.pool = ⟨false, [], none, none⟩ && t.err = some (.allocationFailure 5)) := by
  decide
theorem test_poolBuf : refusalIs (exec (.poolBuf 8) (pooled none)) .noSuchBuffer ∧
    nextIs (exec (.poolBuf 3) (pooled none)) (fun t => t.ret = .buffer 3145728 3145728 153602) := by
  decide
theorem test_poolFree : faultIs (exec .poolFree (steady (chan true false 9) none (some 0))) .freeWhileInUse ∧
    nextIs (exec .poolFree (pooled none)) (fun t => t.pool = ⟨false, [], none, none⟩) := by
  decide
/-- The state `s` inside the handler. -/
def inHandler (s : State) : State := s.setCtx .interrupt
theorem test_dmaConfigure : nextIs (exec (.dmaConfigure 0 2) (inHandler (pooled (some 2))))
      (fun t => t.chans = [{ chan false false 0 with src := 2097152 }]) ∧
    faultIs (exec (.dmaConfigure 0 2) (pooled (some 2))) .swapOutsideHandler := by
  decide
theorem test_dmaConfigure_busy :
    faultIs (exec (.dmaConfigure 0 0) (steady (chan true false 9) none (some 0))) (.resourceBusy 0) ∧
    (Fault.resourceBusy 0).error.map PipeError.code = some 4 := by
  decide
theorem test_dmaStart_running : nextIs (exec (.dmaStart 0) (steady (chan true false 1000) none (some 0)))
    (fun t => t.chans = [chan true false 1000]) := by
  decide
theorem test_dmaStart : nextIs (exec (.dmaStart 0) (steady (chan false false 77) none (some 0)))
      (fun t => t.chans = [chan true false 0]) ∧
    faultIs (exec (.dmaStart 0) (steady (chan false true 153602) none (some 0))) .startBeforeRearm := by
  decide
theorem test_dmaStop : nextIs (exec (.dmaStop 0) (steady (chan true true 9) none (some 0)))
    (fun t => t.chans = [chan false true 9]) := by
  decide
theorem test_dmaAck : nextIs (exec (.dmaAck 0) (inHandler (steady (chan false true 9) none (some 0))))
      (fun t => t.chans = [chan false false 9]) ∧
    nextIs (exec (.dmaAck 0) (steady (chan false true 9) none (some 0))) (fun t => t.chans = [chan false false 9]) := by
  decide
/-- The register map with the enable bit and the completion status of channel 0 in one register. -/
def oneRegister : Config :=
  { Config.reference with
    regmap := { RegMap.reference with chans := [⟨0x00, 0x04, 0x08, 0x0C, ⟨0x10, 0, 1⟩, ⟨0x10, 1, 1⟩⟩] } }
-- R53 (d), R190: a completion fell between the read and the write-back of an acknowledge, which clears it, and R28:
-- enables nothing, though the word written has the enable bit as it was read (R66)
theorem test_ack_torn :
    nextIs (step { under oneRegister (steady (chan false true 153602) none (some 0)) with
        bringup := .streamingCommand
        irq := ⟨false, false, .process⟩
        producer := ⟨none, 0, [], none, some ⟨.dmaAck 0, 1⟩⟩
        inbox := [.producerStep] })
      (fun t => t.chans = [chan false false 153602] && t.trace = [.write 0x2010 (.status 0) 1]) := by
  decide
-- R53 (d), R189: the handler ran between the read and the write-back of a stop, which stops the channel it re-armed
theorem test_stop_torn :
    nextIs (step { under oneRegister (steady (chan true false 0) none (some 0)) with
        producer := ⟨none, 0, [], none, some ⟨.dmaStop 0, 1⟩⟩ })
      (fun t => t.chans = [chan false false 0] && t.trace = [.write 0x2010 (.enable 0) 0]) := by
  decide
-- R22, R218: a completion that fell into a stop stays pending, though the word written has the status bit as it was read
theorem test_stop_keepsCompletion :
    nextIs (step { under oneRegister (steady (chan false true 153602) none (some 0)) with
        irq := ⟨false, false, .process⟩
        producer := ⟨none, 0, [], none, some ⟨.dmaStop 0, 1⟩⟩
        inbox := [.producerStep] })
      (fun t => t.chans = [chan false true 153602] && t.trace = [.write 0x2010 (.enable 0) 0]) := by
  decide
-- R158, R53 (d): the handler ran inside the first register access of a teardown, which stops the channel it re-armed
theorem test_teardown_torn :
    nextIs (step { steady (chan true false 0) none (some 0) with
        producer := ⟨none, 0, [], none, some ⟨.teardown, 1⟩⟩ })
      (fun t => t.chans = [chan false false 0] && t.bringup = .unconfigured && !t.pool.allocated && !t.irq.attached &&
        t.producer = ⟨none, 0, [], none, none⟩) := by
  decide
theorem test_dmaRearm : nextIs (exec (.dmaRearm 0 0) (inHandler (steady (chan false true 153602) none (some 0))))
    (fun t => t.chans = [chan true false 0] && fieldsWritten t.trace = [.status 0, .src 0, .dst 0, .len 0, .ctrl 0, .enable 0]) := by
  decide
/-- Transfer space holding one word of buffer 0. -/
def oneWord (j : Nat) (w : Word) : Memory := write32 .little [] (4 * j) w
theorem test_dmaXfer_last :
    nextIs (exec (.dmaXfer 0) { steady (chan true false 153601) none (some 0) with txMem := oneWord 153601 0x000C0000 })
      (fun t => t.chans = [chan false true 153602] && t.gpio.pinData = 0x000C0000) := by
  decide
theorem test_dmaXfer_first :
    nextIs (exec (.dmaXfer 0) { steady (chan true false 0) none (some 0) with txMem := oneWord 0 0x00000058 })
      (fun t => t.chans = [chan true false 1] && t.gpio.pinData = 0x00000058 && t.panel.latched = []) := by
  decide
theorem test_publishNext : nextIs (exec (.publishNext 2) (steady (chan true false 9) (some 1) (some 2)))
      (fun t => t.pool.pendingNext = some 2 && t.pool.armed = some 0) ∧
    faultIs (exec (.publishNext 0) (steady (chan true false 9) none (some 0))) .publishArmed := by
  decide
theorem test_queryInflight : nextIs (exec .queryInflight (steady (chan true false 9) (some 3) none)) (fun t => t.ret = .flag true) ∧
    nextIs (exec .queryInflight (steady (chan true false 9) none none)) (fun t => t.ret = .flag false) := by
  decide
theorem test_irqFrame_swap : nextIs (exec (.irqFrame 0) (steady (chan false true 153602) (some 1) (some 1)))
    (fun t => t.pool.armed = some 1 && t.pool.pendingNext = none &&
      t.chans = [{ chan true false 0 with src := 1048576 }] && t.irq.ctx = .process) := by
  decide
theorem test_irqFrame_same : nextIs (exec (.irqFrame 0) (steady (chan false true 153602) none (some 0)))
    (fun t => t.pool.armed = some 0 && t.chans = [chan true false 0]) := by
  decide
-- P6: detached, a completion pending
theorem test_interruptLost :
    faultIs (step { steady (chan false true 153602) none (some 0) with irq := ⟨false, false, .process⟩ }) (.interruptLost 0) := by
  decide
-- R220, R135: during an encode the completion is taken first
theorem test_step_order :
    nextIs (step { steady (chan false true 153602) none (some 0) with producer := ⟨some 3, 5, [], none, none⟩, inbox := [.producerStep] })
      (fun t => t.producer = ⟨some 3, 5, [], none, none⟩ && t.chans = [chan true false 0] && t.inbox = [.producerStep]) := by
  decide
theorem test_withFetchWord : nextIs (step (State.reset.withFetchWord 8 0x10)) (fun t => t.bringup = .clocksEnabled) := by
  decide

/-! ### Witnesses: states and operands that meet the hypotheses of the statements, clause by clause -/

/-- SpreadPlacesEachByteInItsField, UnspreadRecoversTheValue, PairLaw, WordRoundTrip, WordEncodingIsInjective,
WordFunctionsReturn, EncodedWordsAreCanonical, FrameGrammar, NonCanonicalWordFaults (first clause), DecodeEncodeAgree. -/
theorem witness_pinMap : pinMapOk Config.reference = true ∧ pinMapOk State.reset.cfg = true := by decide

/-- WordEncodingIsInjective: equal words. -/
theorem witness_WordEncodingIsInjective :
    (encWord Config.reference true 0xFFFF).1 = (encWord Config.reference true 0xFFFF).1 ∧
    (encWord Config.reference true 0xFFFF).2 = (encWord Config.reference true 0xFFFF).2 := by
  decide

theorem witness_EmitPairWritesAndLatchesOnce :
    let s := ready .pinsConfigured none
    (isPair s.cfg 0x58 0x40058 = true ∧ s.gpio.pinMode = .data ∧ pinMapOk s.cfg = true ∧ canonical s.cfg 0x58 = true ∧
      canonical s.cfg 0x40058 = true) ∧
    isPair s.cfg 0x40058 0x40058 = false ∧ State.reset.gpio.pinMode = .signal ∧ canonical s.cfg 0x00000001 = false ∧
    canonical s.cfg 0x00040001 = false := by
  decide

theorem witness_PairsLatchOneValueEach : let s := ready .pinsConfigured none
    pinMapOk s.cfg = true ∧ s.gpio.pinMode = .data ∧ [(false, 0x2C#16), (true, 0#16)] ≠ [] := by
  decide

theorem witness_WordLatchesOnRisingStrobe :
    let s := { ready .armed none with panel := ⟨false, true, []⟩ }
    let u := ready .armed none
    (encodeWord s.cfg (.datHi 0x001F) = some 0x000C003E ∧ pinMapOk s.cfg = true ∧ s.gpio.pinMode = .data ∧
      s.panel.strobeKnown = true ∧ s.panel.strobeSeen = false ∧ (0x000C003E#32).getLsbD s.cfg.strobePos = true) ∧
    (encodeWord u.cfg (.cmdLo 0x2C) = some 0x58 ∧ u.gpio.pinMode = .data ∧ (0x58#32).getLsbD u.cfg.strobePos = false) := by
  decide

theorem witness_UnknownStrobeFaultsAndSignalModeHidesThePins :
    let s := ready .armed none
    (encodeWord s.cfg (.cmdHi 0x2C) = some 0x40058 ∧ pinMapOk s.cfg = true ∧ s.gpio.pinMode = .data ∧
      s.panel.strobeKnown = false ∧ (0x40058#32).getLsbD s.cfg.strobePos = true) ∧
    State.reset.gpio.pinMode = .signal := by
  decide

theorem witness_NonCanonicalWordFaults :
    let s := { steady (chan true false 7) none (some 0) with txMem := oneWord 7 0x00100000, inbox := [.word 0x00000001] }
    (configProblem s.cfg = none ∧ canonical s.cfg 0x00000001 = false ∧ s.inbox = .word 0x00000001 :: []) ∧
    (isPair s.cfg 0x00000001 0x00040001 = true ∧ s.gpio.pinMode = .data) ∧
    (s.chans[0]? = some (chan true false 7) ∧ (chan true false 7).dmaPos < (chan true false 7).len.toNat / 4 ∧
      s.tcon.valid = true ∧ read32 s.cfg.endian s.txMem (0 + 4 * 7) = some 0x00100000 ∧
      canonical s.cfg 0x00100000 = false) := by
  decide

/-- EncodeFrameBegins, on the last buffer, and EncodeStepWritesOnePixel, on the last pixel and the first. -/
theorem witness_EncodeFrameBegins : let s := pooled (some 7)
    s.irq.ctx = .process ∧ s.producer.encoding = none ∧ s.pix.bytes = 2 * nPix ∧ 7 < nPool ∧ s.pool.allocated = true ∧
    s.pool.bufs[7]? = some ⟨7340032, 7340032, bufWords, true⟩ ∧ s.pool.armed ≠ some 7 ∧ s.pool.pendingNext ≠ some 7 ∧
    ∀ ch ∈ s.chans, ch.enable = true → ch.src.toNat ≠ 7340032 := by
  decide

theorem witness_EncodeStepWritesOnePixel :
    let s := { pooled none with producer := ⟨some 7, 76799, [], none, none⟩, pix := ⟨0, 153600, [(153598, 0xFF), (153599, 0xFF)]⟩ }
    let u := { pooled none with producer := ⟨some 7, 0, [], none, none⟩ }
    (s.producer.encoding = some 7 ∧ s.producer.encIdx < nPix ∧ s.producer.encIdx + 1 = nPix ∧ s.pool.allocated = true ∧
      s.pool.bufs[7]? = some ⟨7340032, 7340032, bufWords, false⟩ ∧ s.pool.armed ≠ some 7 ∧ s.pool.pendingNext ≠ some 7 ∧
      (∀ ch ∈ s.chans, ch.enable = true → ch.src.toNat ≠ 7340032) ∧ readPixel s s.producer.encIdx = some 0xFFFF) ∧
    u.producer.encIdx + 1 < nPix ∧ readPixel u u.producer.encIdx = none := by
  decide

theorem witness_GeometryMismatchWritesNothing :
    let s := { pooled none with pix := ⟨0, 153602, []⟩ }
    let u := { State.reset with pool := ⟨true, [⟨0, 0, 153601, false⟩], none, none⟩ }
    (s.irq.ctx = .process ∧ s.producer.encoding = none ∧ s.pix.bytes ≠ 153600) ∧
    (u.irq.ctx = .process ∧ u.producer.encoding = none ∧ u.pix.bytes = 153600 ∧ 0 < nPool ∧ u.pool.allocated = true ∧
      u.pool.bufs[0]? = some ⟨0, 0, 153601, false⟩ ∧ 153601 ≠ 153602) := by
  decide

theorem witness_ArmedOrPublishedBufferIsNeverWritten :
    let s := steady (chan true false 9) (some 1) (some 0)
    let u := { s with producer := ⟨some 1, 5, [], none, none⟩ }
    (0 < nPool ∧ s.pool.allocated = true ∧ s.pool.bufs[0]? = some ⟨0, 0, bufWords, true⟩ ∧ s.pool.armed = some 0 ∧
      s.irq.ctx = .process ∧ s.producer.encoding = none ∧ s.pix.bytes = 2 * nPix) ∧
    (u.pool.bufs[1]? = some ⟨1048576, 1048576, bufWords, false⟩ ∧ u.pool.pendingNext = some 1 ∧
      u.producer.encoding = some 1) ∧
    (let v := { pooled none with chans := [chan true false 9] };
      v.pool.armed ≠ some 0 ∧ v.pool.pendingNext ≠ some 0 ∧ chan true false 9 ∈ v.chans ∧
      (chan true false 9).src.toNat = 0) := by
  decide

theorem witness_ClocksEnabled :
    (State.reset.irq.ctx = .process ∧ State.reset.bringup = .unconfigured ∧ State.reset.err = none) ∧
    nextIs (exec .brgClocks State.reset) (fun t => t.crc ≠ State.reset.crc) ∧
    nextIs (exec .teardown (ready .armed none)) (fun t => t.crc ≠ (ready .armed none).crc) := by
  decide

theorem witness_PinsConfigured : let s := ready .clocksEnabled none
    s.irq.ctx = .process ∧ s.bringup = .clocksEnabled ∧ s.err = none ∧ s.gpio.pins[31]? = some Pin.reset := by
  decide

theorem witness_TimingConfigured :
    let s := ready .pinsConfigured none
    let u := under { Config.reference with timing := ⟨320, 241, 0, 0, 0, 0, 1⟩ } s
    let v := under { Config.reference with timing := ⟨320, 240, 0, 0, 0, 0, 0⟩ } s
    (s.irq.ctx = .process ∧ s.bringup = .pinsConfigured ∧ s.err = none ∧ s.crc.clkTcon = true ∧ s.crc.rstTcon = false ∧
      s.cfg.timing.activeW = 320 ∧ s.cfg.timing.activeH = 240 ∧ 1 ≤ s.cfg.timing.clkDiv) ∧
    (u.bringup = .pinsConfigured ∧ u.crc.clkTcon = true ∧ u.cfg.timing.activeH ≠ 240) ∧ v.cfg.timing.clkDiv = 0 ∧
    ({ s with crc := ⟨true, true, false, true⟩ } : State).crc.rstTcon = true := by
  decide

theorem witness_PanelInitIsEmitted :
    let s := ready .timingConfigured none
    let u := under { Config.reference with panelInit := [⟨false, 0x11⟩, ⟨true, 0x05⟩] } s
    (s.irq.ctx = .process ∧ s.bringup = .timingConfigured ∧ s.err = none ∧ s.tcon.valid = true ∧ s.gpio.pinMode = .data ∧
      pinMapOk s.cfg = true ∧ s.cfg.panelInit = []) ∧
    u.bringup = .timingConfigured ∧ pinMapOk u.cfg = true ∧ u.cfg.panelInit.getLast? = some ⟨true, 0x05⟩ := by
  decide

theorem witness_FirstArm :
    let s := { ready .streamingCommand (some 7) with chans := [chan false false 3] }
    (s.irq.ctx = .process ∧ s.bringup = .streamingCommand ∧ s.err = none ∧ 7 < nPool ∧ s.pool.allocated = true ∧
      s.pool.bufs[7]? = some ⟨7340032, 7340032, bufWords, true⟩ ∧ s.irq.attached = true ∧
      s.chans[0]? = some (chan false false 3) ∧ s.producer.encoding ≠ some 7 ∧ s.gpio.pinMode = .data ∧
      s.tcon.valid = true ∧ s.crc.clkDma = true ∧ s.cfg.hwAtomicRegUpdate = true) ∧
    (under { Config.reference with hwAtomicRegUpdate := false } s).cfg.hwAtomicRegUpdate = false ∧
    s.pool.bufs[0]? = some ⟨0, 0, bufWords, false⟩ ∧
    ({ s with irq := ⟨false, false, .process⟩ } : State).irq.attached = false ∧
    ({ s with pool := ⟨false, [], none, none⟩ } : State).pool.allocated = false := by
  decide

/-- BringupOrderIsEnforced: a refused operation, and the last edge of the chain. -/
theorem witness_BringupOrderIsEnforced :
    (bringupEdge .brgPins = some (.clocksEnabled, .pinsConfigured) ∧ State.reset.irq.ctx = .process ∧
      State.reset.bringup ≠ .clocksEnabled) ∧
    nextIs (exec (.brgArm 0 0) (ready .streamingCommand (some 0))) (fun t => t.bringup ≠ .streamingCommand) := by
  decide

theorem witness_ErrorStopsBringup :
    let s := { State.reset with err := some (.allocationFailure 7) }
    s.irq.ctx = .process ∧ s.err.isSome = true ∧ bringupEdge .brgClocks = some (.unconfigured, .clocksEnabled) ∧
    s.bringup = .unconfigured := by
  decide

theorem witness_TeardownReleasesEverything : let s := steady (chan true true 9) (some 1) (some 0)
    s.irq.ctx = .process ∧ s.pool.allocated = true ∧ s.chans[0]? = some (chan true true 9) ∧
    State.reset.pool.allocated = false := by
  decide

theorem witness_TimingIsConstant :
    nextIs (exec (.tconCfg .timing) { ready .pinsConfigured none with tcon := State.reset.tcon }) (fun t => t.tcon ≠ State.reset.tcon) ∧
    nextIs (exec .teardown (ready .armed none)) (fun t => t.tcon ≠ (ready .armed none).tcon) := by
  decide

theorem witness_SlotAndRegistrationWriters :
    nextIs (exec (.irqFrame 0) (steady (chan false true 9) (some 1) (some 1)))
      (fun t => t.pool.armed ≠ some 0 && t.pool.pendingNext ≠ some 1) ∧
    nextIs (exec (.brgArm 0 0) (ready .streamingCommand (some 0))) (fun t => t.pool.armed ≠ none) ∧
    nextIs (exec (.publishNext 7) (steady (chan true false 9) none (some 7))) (fun t => t.pool.pendingNext ≠ none) ∧
    nextIs (exec .teardown (steady (chan true false 9) (some 1) none))
      (fun t => t.pool.armed ≠ some 0 && t.pool.pendingNext ≠ some 1 && t.irq.attached ≠ true) ∧
    (let u := { State.reset with inbox := [.attach] };
      configProblem u.cfg = none ∧ u.inbox = .attach :: [] ∧ producerBusy u = false ∧ u.irq.attached = false ∧
      nextIs (step u) (fun t => t.irq.attached = true)) := by
  decide

theorem witness_PoolAllocationIsAllOrNothing :
    (State.reset.irq.ctx = .process ∧ State.reset.pool.allocated = false ∧
      (∀ k < nPool, State.reset.allocDraws[k]? = some (some (0x80000000 + 0x100000 * k, 0x10000000 + 0x100000 * k))) ∧
      (∀ k < nPool, (0x80000000 + 0x100000 * k) % 4 = 0 ∧ (0x10000000 + 0x100000 * k) % 4 = 0 ∧
        0x10000000 + 0x100000 * k + 614408 ≤ 4294967296) ∧
      ∀ i j, i < j → j < nPool → 0x10000000 + 0x100000 * i + 614408 ≤ 0x10000000 + 0x100000 * j ∧
        0x80000000 + 0x100000 * i + 614408 ≤ 0x80000000 + 0x100000 * j) ∧
    (let u := { State.reset with allocDraws := allocDrawsReset.take 7 ++ [some (0, 4294967292)] };
      let v := { State.reset with allocDraws := allocDrawsReset.take 7 ++ [some (0, 0x10000004)] };
      (∀ k < nPool, ∃ x, u.allocDraws[k]? = some (some x)) ∧ 4294967296 < 4294967292 + 614408 ∧
      (∀ k < nPool, ∃ x, v.allocDraws[k]? = some (some x)) ∧
      0x10000000 < 0x10000004 + 614408 ∧ 0x10000004 < 0x10000000 + 614408) ∧
    (let u := { State.reset with allocDraws := allocDrawsReset.take 7 ++ [none] };
      (∀ j < 7, ∃ x, u.allocDraws[j]? = some (some x)) ∧ u.allocDraws[7]? = some none) ∧
    (pooled none).pool.allocated = true := by
  have answered (draws : List AllocDraw) (n : Nat) (h : ∀ k < n, (draws[k]?.map Option.isSome) = some true) (k : Nat)
      (hk : k < n) : ∃ x, draws[k]? = some (some x) := by
    have := h k hk
    simp only [Option.map_eq_some_iff, Option.isSome_iff_exists] at this
    obtain ⟨-, hd, x, rfl⟩ := this
    exact ⟨x, hd⟩
  exact ⟨⟨by decide, by decide, by decide, by decide, fun i j h _ => by omega⟩,
    ⟨answered _ 8 (by decide), by decide, answered _ 8 (by decide), by decide⟩, ⟨answered _ 7 (by decide), by decide⟩,
    by decide⟩

theorem witness_PoolBufferIsNamed : let s := pooled none
    (7 < 8 ∧ s.pool.allocated = true ∧ s.pool.bufs[7]? = some ⟨7340032, 7340032, bufWords, false⟩ ∧ bufWords = 153602) ∧
    State.reset.pool.allocated = false := by
  decide

theorem witness_PoolFreeReleasesAll :
    let s := pooled (some 1)
    let u := steady (chan true false 9) none (some 0)
    (s.irq.ctx = .process ∧ s.pool.allocated = true ∧ s.pool.armed = none ∧ (∀ ch ∈ s.chans, ch.enable = false) ∧
      s.irq.attached = false) ∧
    (u.irq.ctx = .process ∧ u.pool.allocated = true ∧ u.pool.armed ≠ none ∧ (∃ ch ∈ u.chans, ch.enable = true) ∧
      u.irq.attached = true) ∧
    (State.reset.pool.allocated = false ∧ State.reset.pool.armed = none ∧ State.reset.irq.attached = false) ∧
    (let v := { State.reset with irq := ⟨true, false, .process⟩ };
      v.pool.allocated = false ∧ v.irq.attached = true) := by
  decide

theorem witness_PublishWritesTheSlot : let s := steady (chan true false 9) (some 1) (some 7)
    s.irq.ctx = .process ∧ 7 < nPool ∧ s.pool.allocated = true ∧
    s.pool.bufs[7]? = some ⟨7340032, 7340032, bufWords, true⟩ ∧ s.pool.armed ≠ some 7 ∧
    s.pool.bufs[6]? = some ⟨6291456, 6291456, bufWords, false⟩ ∧ s.pool.armed = some 0 := by
  decide

theorem witness_ConfigureWritesTheChannel :
    let s := pooled (some 7)
    let u := { steady (chan true false 9) none (some 0) with producer := ⟨some 3, 4, [], none, none⟩ }
    (s.chans[0]? = some Channel.reset ∧ 7 < nPool ∧ s.pool.allocated = true ∧
      s.pool.bufs[7]? = some ⟨7340032, 7340032, bufWords, true⟩ ∧ Channel.reset.enable = false ∧
      s.producer.encoding ≠ some 7 ∧ s.irq.ctx = .process ∧ (inHandler s).irq.ctx = .interrupt) ∧
    (u.chans[0]? = some (chan true false 9) ∧ (chan true false 9).enable = true ∧ u.producer.encoding = some 3) ∧
    s.pool.bufs[6]? = some ⟨6291456, 6291456, bufWords, false⟩ := by
  decide

theorem witness_StartIsIdempotent :
    let s := steady (chan false true 9) none (some 0)
    (s.chans[0]? = some (chan false true 9) ∧ s.irq.ctx = .process ∧ s.gpio.pinMode = .data ∧ s.tcon.valid = true ∧
      s.crc.clkDma = true ∧ (chan false true 9).configured = true ∧ (chan false true 9).irqPending = true) ∧
    (chan false false 9).irqPending = false ∧ (chan true false 9).enable = true ∧ State.reset.gpio.pinMode = .signal ∧
    State.reset.chans[0]? = some Channel.reset ∧ Channel.reset.enable = false ∧ Channel.reset.configured = false := by
  decide

theorem witness_StopAndAcknowledge :
    (State.reset.chans[0]? = some Channel.reset ∧ State.reset.irq.ctx = .process ∧ Channel.reset.enable = false ∧
      Channel.reset.irqPending = false) ∧
    nextIs (exec (.dmaXfer 0) { steady (chan true false 153601) none (some 0) with txMem := oneWord 153601 0x000C0000 })
      (fun t => t.chans = [chan false true 153602]) ∧
    nextIs (exec (.irqFrame 0) (steady (chan false true 153602) none (some 0))) (fun t => t.chans = [chan true false 0]) := by
  decide

theorem witness_RearmAcknowledgesFirst : let s := steady (chan false true 153602) none (some 0)
    s.chans[0]? = some (chan false true 153602) ∧ s.pool.allocated = true ∧
    s.pool.bufs[0]? = some ⟨0, 0, bufWords, true⟩ ∧ (chan false true 153602).enable = false ∧
    s.producer.encoding ≠ some 0 ∧ s.gpio.pinMode = .data ∧ s.tcon.valid = true ∧ s.crc.clkDma = true ∧
    s.irq.ctx = .process ∧ (inHandler s).irq.ctx = .interrupt := by
  decide

/-- EngineMovesOneWord, and LastWordCompletes at the last word, with and without an unacknowledged completion. -/
theorem witness_EngineMovesOneWord :
    let s := { steady (chan true false 153600) none (some 0) with txMem := oneWord 153600 0x00080000 }
    let u := { steady (chan true true 153601) none (some 0) with txMem := oneWord 153601 0x000C0000 }
    let v := { steady (chan true false 153601) none (some 0) with txMem := oneWord 153601 0x000C0000 }
    (s.chans[0]? = some (chan true false 153600) ∧ 153600 + 1 < (chan true false 153600).len.toNat / 4 ∧ s.gpio.pinMode = .data ∧
      s.tcon.valid = true ∧ read32 s.cfg.endian s.txMem (0 + 4 * 153600) = some 0x00080000 ∧
      canonical s.cfg 0x00080000 = true ∧ s.panel.strobeKnown = true ∧ read32 s.cfg.endian s.txMem (0 + 4 * 7) = none) ∧
    (u.chans[0]? = some (chan true true 153601) ∧ 153601 + 1 = (chan true true 153601).len.toNat / 4 ∧ u.irq.ctx = .process ∧
      read32 u.cfg.endian u.txMem (0 + 4 * 153601) = some 0x000C0000 ∧ canonical u.cfg 0x000C0000 = true) ∧
    (v.chans[0]? = some (chan true false 153601) ∧ (chan true false 153601).irqPending = false) ∧
    (chan false false 153602).enable = false ∧ (chan true false 153602).len.toNat / 4 ≤ (chan true false 153602).dmaPos := by
  decide

theorem witness_FrameCompletionHandler : let s := steady (chan false true 153602) (some 7) (some 7)
    s.irq = ⟨true, false, .process⟩ ∧ s.chans[0]? = some (chan false true 153602) ∧
    (chan false true 153602).irqPending = true ∧ (chan false true 153602).lost = false ∧
    (chan false true 153602).enable = false ∧ s.pool.armed = some 0 ∧ 7 = s.pool.pendingNext.getD 0 ∧ 7 < nPool ∧
    s.pool.allocated = true ∧ s.pool.bufs[7]? = some ⟨7340032, 7340032, bufWords, true⟩ ∧
    s.producer.encoding ≠ some 7 ∧ s.gpio.pinMode = .data ∧ s.tcon.valid = true ∧ s.crc.clkDma = true := by
  decide

theorem witness_HandlerIsNotEntered :
    let s := { ready .timingConfigured none with chans := [chan false true 153602] }
    (s.chans[0]? = some (chan false true 153602) ∧ s.irq = ⟨true, false, .process⟩ ∧ s.pool.armed = none ∧
      (chan false true 153602).irqPending = true ∧ (chan false true 153602).lost = false) ∧
    ({ s with irq := ⟨true, true, .process⟩ } : State).irq.masked = true ∧
    ({ s with irq := ⟨false, false, .process⟩ } : State).irq.attached = false ∧
    ({ s with irq := ⟨true, false, .interrupt⟩ } : State).irq.ctx = .interrupt ∧ (chan true false 0).irqPending = false := by
  decide

theorem witness_InterruptIsTakenAtOnce :
    let s := steady (chan false true 153602) none (some 0)
    let u := { s with producer := ⟨some 3, 5, [], none, none⟩, inbox := [.producerStep] }
    (configProblem s.cfg = none ∧ s.chans = [chan false true 153602] ∧ s.irq = ⟨true, false, .process⟩ ∧ s.inbox = [] ∧
      nextIs (step s) (fun _ => true)) ∧
    (u.inbox = .producerStep :: [] ∧ producerHasWork u = true ∧ nextIs (step u) (fun _ => true)) ∧
    (({ u with inbox := [.attach] } : State).inbox = .attach :: [] ∧ producerBusy u = true) ∧
    (let v := { u with inbox := [.calls [0x10]] };
      v.inbox = codeEvent (.bytes [0x10]) :: [] ∧ dec (.bytes [0x10]) = some (.brgClocks, []) ∧
      isProducers .brgClocks = true ∧ producerBusy v = true) := by
  decide

theorem witness_InterruptContextIsRestricted :
    ({ State.reset with irq := ⟨true, false, .interrupt⟩ } : State).irq.ctx = .interrupt ∧
    bringupEdge .brgClocks = some (.unconfigured, .clocksEnabled) := by
  decide

theorem witness_ErrorRecordIsSticky :
    nextIs (exec .queryInflight { State.reset with err := some (.allocationFailure 0) }) (fun t => t.err ≠ none) ∧
    nextIs (exec (.encFrame 0) { State.reset with pix := ⟨0, 0, []⟩ }) (fun t => t.err ≠ State.reset.err) := by
  decide

theorem witness_IllFormedPinMapIsRefused :
    ({ State.reset with cfg := { Config.reference with bLsb := 8 } } : State).cfg.bLsb = 8 ∧
    pinMapOk { Config.reference with bLsb := 8 } = false := by
  decide

theorem witness_CollaboratorWritesOnePixel :
    let s := { State.reset with inbox := [.pixelWrite 76799 0xFFFF] }
    configProblem s.cfg = none ∧ s.inbox = .pixelWrite 76799 0xFFFF :: [] ∧ 2 * 76799 + 2 ≤ s.pix.bytes := by
  decide

theorem witness_DecodeEncodeAgree :
    encodeWord Config.reference (.datHi 0x001F) = some 0x000C003E ∧
    ((Instr.brgArm 0 255).wf = true ∧ opsel (.brgArm 0 255) = some 0x14) ∧
    dec (.word 0x000C003E) = some (.datHi 0x001F, []) := by
  decide

theorem witness_TableWordsDecode : (0x15#8).toNat ∉ [0x01, 0x02, 0x03, 0x04, 0x05, 0x10, 0x11, 0x12, 0x13, 0x14, 0x1F] := by
  decide

theorem witness_StepRunsTheDecodedInstruction :
    let s := { State.reset with inbox := [.calls [0x10, 0x41]] }
    let u := { pooled none with producer := ⟨some 3, 5, [], none, none⟩, inbox := [.calls [0x10]] }
    (configProblem s.cfg = none ∧ s.inbox = codeEvent (.bytes [0x10, 0x41]) :: [] ∧
      dec (.bytes [0x10, 0x41]) = some (.brgClocks, [0x41]) ∧ s.producer.encoding = none ∧ s.producer.thenPublish = none ∧ s.producer.halfWrite = none) ∧
    (u.producer.encoding.isSome = true ∧ isProducers .brgClocks = true ∧ deliverable u = none) ∧
    (let v := { u with producer := ⟨none, 76800, [], some 3, none⟩ };
      v.producer.encoding = none ∧ v.producer.thenPublish = some 3 ∧ deliverable v = none) ∧
    (let v := { u with producer := ⟨none, 0, [], none, some ⟨.teardown, 0⟩⟩ };
      v.producer.encoding = none ∧ v.producer.thenPublish = none ∧ v.producer.halfWrite.isSome = true ∧
      deliverable v = none) := by
  decide

theorem witness_NotificationIsServed :
    let s := { State.reset with inbox := [.notify 7 3] }
    let u := { pooled none with producer := ⟨none, 0, [9], none, none⟩ }
    let v := { pooled (some 1) with producer := ⟨none, 76800, [], some 1, none⟩ }
    (configProblem s.cfg = none ∧ s.inbox = .notify 7 3 :: []) ∧ 3 ∈ fillCandidates s ∧
    (u.inbox = [] ∧ deliverable u = none ∧ u.producer.encoding = none ∧ u.producer.thenPublish = none ∧
      u.producer.halfWrite = none ∧ u.producer.notes = 9 :: [] ∧ u.pool.allocated = true ∧ chooseBuffer u 9 = 1 ∧
      nextIs (exec (.encFrame 1) { u with producer := ⟨none, 0, [], none, none⟩ }) (fun t => t.producer.encoding = some 1)) ∧
    (v.inbox = [] ∧ deliverable v = none ∧ v.producer.encoding = none ∧ v.producer.thenPublish = some 1) := by
  decide

/-- RegistersAreReadModifyWritten: a stop that keeps the bits no rule names; and the two halves of an acknowledge, of
a stop and of a teardown, of a running channel whose enable bit and completion status lie in one register. -/
theorem witness_RegistersAreReadModifyWritten :
    let s := { steady (chan true false 9) none (some 0) with regOther := [(0x2010, 0xA0)] }
    s.irq.ctx = .process ∧ s.chans[0]? = some (chan true false 9) ∧
    (RegMap.locate s.cfg.regmap (.enable 0)).addr = 0x2010 ∧
    nextIs (exec (.dmaStop 0) s) (fun t => t.trace = [.read 0x2010 0xA1, .write 0x2010 (.enable 0) 0xA0]) ∧
    (let u := { under oneRegister (steady (chan true false 9) none (some 0)) with inbox := [.readHalf (.dmaAck 0)] };
      configProblem u.cfg = none ∧ u.inbox = .readHalf (.dmaAck 0) :: [] ∧ u.irq.ctx = .process ∧
      producerBusy u = false ∧ u.chans[0]? = some (chan true false 9) ∧
      nextIs (step u) (fun t => t.producer = ⟨none, 0, [], none, some ⟨.dmaAck 0, 1⟩⟩)) ∧
    (let u := { under oneRegister (steady (chan true false 9) none (some 0)) with inbox := [.readHalf (.dmaStop 0)] };
      configProblem u.cfg = none ∧ u.inbox = .readHalf (.dmaStop 0) :: [] ∧ u.irq.ctx = .process ∧
      producerBusy u = false ∧ nextIs (step u) (fun t => t.producer = ⟨none, 0, [], none, some ⟨.dmaStop 0, 1⟩⟩)) ∧
    (let u := { under oneRegister (steady (chan true false 9) none (some 0)) with inbox := [.readHalf .teardown] };
      configProblem u.cfg = none ∧ u.inbox = .readHalf .teardown :: [] ∧ u.irq.ctx = .process ∧
      producerBusy u = false ∧ nextIs (step u) (fun t => t.producer = ⟨none, 0, [], none, some ⟨.teardown, 1⟩⟩)) ∧
    (let u := { steady (chan true false 9) none (some 0) with producer := ⟨none, 0, [], none, some ⟨.teardown, 1⟩⟩ };
      u.producer.encoding = none ∧ u.producer.thenPublish = none ∧ u.chans[0]? = some (chan true false 9) ∧
      nextIs (exec .teardown u) (fun _ => true)) ∧
    (let u := { steady (chan true false 9) none (some 0) with producer := ⟨none, 0, [], none, some ⟨.dmaStop 0, 1⟩⟩ };
      let v := { u with producer := ⟨none, 0, [], none, some ⟨.dmaAck 0, 1⟩⟩ };
      u.producer.encoding = none ∧ u.producer.thenPublish = none ∧ u.chans[0]? = some (chan true false 9) ∧
      v.producer.halfWrite = some ⟨.dmaAck 0, 1⟩) := by
  decide

/-! #### States that hold a whole frame -/

/-- The bytes `f a` at the addresses `0..n-1`. -/
def span (n : Nat) (f : Nat → Byte) : Memory := (List.range' 0 n).map fun a => (a, f a)

theorem memRead_spanFrom (f : Nat → Byte) (n k x : Nat) (h1 : k ≤ x) (h2 : x < k + n) :
    memRead ((List.range' k n).map fun a => (a, f a)) x = some (f x) := by
  induction n generalizing k with
  | zero => omega
  | succ n ih =>
    rw [List.range'_succ, List.map_cons, memRead]
    split
    · subst_vars; rfl
    · exact ih (k + 1) (by omega) (by omega)

theorem memRead_span (f : Nat → Byte) {n x : Nat} (h : x < n) : memRead (span n f) x = some (f x) :=
  memRead_spanFrom f n 0 x (Nat.zero_le x) (by omega)

theorem wf_spanFrom (f : Nat → Byte) (n k : Nat) : Memory.wf ((List.range' k n).map fun a => (a, f a)) = true := by
  induction n generalizing k with
  | zero => rfl
  | succ n ih =>
    rw [List.range'_succ, List.map_cons, Memory.wf_cons, ih, Bool.and_true]
    cases n with
    | zero => rfl
    | succ n => rw [List.range'_succ, List.map_cons]; simp

/-- A black PixelBuffer. -/
def blackPix : PixelBuffer := ⟨0, 153600, span 153600 fun _ => 0⟩

/-- The frame of the pixels `P`, in buffer 0 and in buffer 1. -/
def frameMem (P : Nat → Pixel) : Memory :=
  span 1662984 fun a => wordByte .little (frameWord Config.reference P (a % 1048576 / 4)) (a % 4)

theorem read32_frameMem (P : Nat → Pixel) {k j : Nat} (hk : k < 2) (h : j < bufWords) :
    read32 .little (frameMem P) (1048576 * k + 4 * j) = some (frameWord Config.reference P j) := by
  simp only [bufWords, wordsPerWrite, panelW, panelH] at h
  have key : ∀ i < 4, memRead (frameMem P) (1048576 * k + 4 * j + i) =
      some (wordByte .little (frameWord Config.reference P j) i) := by
    intro i hi
    rw [frameMem, memRead_span _ (by omega), show (1048576 * k + 4 * j + i) % 1048576 / 4 = j by omega,
      show (1048576 * k + 4 * j + i) % 4 = i by omega]
  have h0 := key 0 (by omega)
  rw [Nat.add_zero] at h0
  simp only [read32, h0, key 1 (by omega), key 2 (by omega), key 3 (by omega), wordOfBytes_wordByte]

/-- Eight buffers, of which the first two are encoded. -/
def twoBufs : List Buffer := (List.range 8).map fun k => ⟨1048576 * k, 1048576 * k, bufWords, decide (k < 2)⟩

/-- Armed with buffer 0; buffers 0 and 1 hold the black frame. -/
def streaming (ch : Channel) (next : Option Nat) : State :=
  { steady ch next none with pool := ⟨true, twoBufs, some 0, next⟩, txMem := frameMem fun _ => 0 }

theorem holdsFrame_streaming (ch : Channel) (next : Option Nat) (l c : Nat) (e : Bool) {k : Nat} (hk : k < 2) :
    holdsFrame (streaming ch next) ⟨l, 1048576 * k, c, e⟩ (fun _ => 0) bufWords := by
  intro j hj
  have := read32_frameMem (fun _ => 0) hk hj
  simpa [readTx, txAddr, wordBytes, streaming, steady, ready, pooled, State.reset, State.resetWith, Config.reference] using this

theorem witness_WholeFrameIsEncoded : let s := { pooled none with pix := blackPix }
    s.irq.ctx = .process ∧ s.producer.encoding = none ∧ s.pix.bytes = 2 * nPix ∧ s.pool.allocated = true ∧
    s.pool.bufs[7]? = some ⟨7340032, 7340032, bufWords, false⟩ ∧ s.pool.armed ≠ some 7 ∧ s.pool.pendingNext ≠ some 7 ∧
    (∀ ch ∈ s.chans, ch.enable = true → ch.src.toNat ≠ 7340032) ∧ ∀ i < nPix, readPixel s i = some 0 := by
  refine ⟨rfl, rfl, rfl, rfl, by decide, by decide, by decide, by decide, fun i hi => ?_⟩
  simp only [nPix, panelW, panelH] at hi
  have h (k : Nat) (hk : k < 2) : memRead blackPix.mem (0 + 2 * i + k) = some 0 := memRead_span _ (by omega)
  have h0 := h 0 (by omega)
  rw [Nat.add_zero] at h0
  show read16 .little blackPix.mem (0 + 2 * i) = some 0
  simp only [read16, h0, h 1 (by omega)]
  decide

/-- From an encode in progress into an idle buffer, with every pixel readable, `n` further steps complete. -/
theorem encodeRun_completes (k n : Nat) (s : State) (b : Buffer) (i : Nat) (hn : i + n = nPix)
    (hp : s.producer = if i = nPix then ⟨none, i, [], none, none⟩ else ⟨some k, i, [], none, none⟩) (hk : k < nPool) (ha : s.pool.allocated = true)
    (hb : s.pool.bufs[k]? = some b) (hu : bufferInUse s k b = false) (hr : ∀ j < nPix, ∃ p, readPixel s j = some p) :
    ∃ t, encodeRun n s = .next t := by
  induction n generalizing s b i with
  | zero => exact ⟨s, rfl⟩
  | succ n ih =>
    rw [if_neg (by omega)] at hp
    obtain ⟨p, hpx⟩ := hr i (by omega)
    have he : encodeStep s = .next (writeTxPair b (2 + 2 * i) (encWord s.cfg true p)
        ((s.setBuf k { b with encoded := decide (i + 1 = nPix) }).modProducer (producerAfter k i))) := by
      simp only [encodeStep, hp, withBuf_of hk ha hb, hu, hpx, Bool.false_eq_true, if_false]
    have hlt : k < s.pool.bufs.length := by
      obtain ⟨h, -⟩ := List.getElem?_eq_some_iff.mp hb
      exact h
    rw [encodeRun, he, andThen_next]
    exact ih _ { b with encoded := decide (i + 1 = nPix) } (i + 1) (by omega)
      (by simp only [writeTxPair, State.modProducer_producer, State.setBuf_producer, hp, producerAfter]; split <;> rfl) ha
      (by simp [writeTxPair, State.setBuf, hlt]) hu hr

theorem encodeWhole_completes {k : Nat} {s u : State} {b : Buffer} (h : exec (.encFrame k) s = .next u)
    (hp : u.producer = ⟨some k, 0, [], none, none⟩) (hk : k < nPool) (ha : u.pool.allocated = true) (hb : u.pool.bufs[k]? = some b)
    (hu : bufferInUse u k b = false) (hr : ∀ j < nPix, ∃ p, readPixel u j = some p) :
    ∃ t, encodeWhole k s = .next t := by
  rw [encodeWhole, h, andThen_next]
  exact encodeRun_completes k nPix u b 0 (by decide) hp hk ha hb hu hr

/-- EncodingIsDeterministic: two states with equal pixels, and their two whole encodes, into buffers 7 and 0. -/
theorem witness_EncodingIsDeterministic : let s := { pooled none with pix := blackPix }
    (∀ i < nPix, readPixel s i = readPixel s i) ∧ s.pool.bufs[7]? = some ⟨7340032, 7340032, bufWords, false⟩ ∧
    s.pool.bufs[0]? = some ⟨0, 0, bufWords, false⟩ ∧ (∃ t, encodeWhole 7 s = .next t) ∧
    ∃ t, encodeWhole 0 s = .next t := by
  have hr := witness_WholeFrameIsEncoded.2.2.2.2.2.2.2.2
  refine ⟨fun _ _ => rfl, by decide, by decide, ?_, ?_⟩
  · exact encodeWhole_completes (b := ⟨7340032, 7340032, bufWords, false⟩) rfl rfl (by decide) rfl (by decide)
      (by decide) fun j hj => ⟨0, hr j hj⟩
  · exact encodeWhole_completes (b := ⟨0, 0, bufWords, false⟩) rfl rfl (by decide) rfl (by decide) (by decide)
      fun j hj => ⟨0, hr j hj⟩

theorem witness_StreamedFrameLatchesThePixels : let s := streaming (chan true false 0) none
    pinMapOk s.cfg = true ∧ s.chans[0]? = some (chan true false 0) ∧ (chan true false 0).len.toNat = frameBytes ∧
    (chan true false 0).src.toNat = 0 ∧ s.gpio.pinMode = .data ∧ s.tcon.valid = true ∧
    holdsFrame s ⟨0, 0, bufWords, true⟩ (fun _ => 0) bufWords :=
  ⟨by decide, rfl, by decide, rfl, rfl, rfl, holdsFrame_streaming _ _ _ _ _ (k := 0) (by decide)⟩

theorem twoBufs_get {i : Nat} {a : Buffer} (h : twoBufs[i]? = some a) :
    i < 8 ∧ a = ⟨1048576 * i, 1048576 * i, bufWords, decide (i < 2)⟩ := by
  simp only [twoBufs, List.getElem?_map, Option.map_eq_some_iff, List.getElem?_eq_some_iff, List.length_range,
    List.getElem_range] at h
  obtain ⟨k, ⟨hk, rfl⟩, rfl⟩ := h
  exact ⟨hk, rfl⟩

/-- The invariant holds of a machine streaming a black frame. -/
theorem inv_streaming (ch : Channel) (next : Option Nat) (h : ch = chan true false 0 ∨ ch = chan false true 153602) :
    Inv (streaming ch next) where
  txCanonical := wf_spanFrom _ _ _
  pixCanonical := rfl
  pixAligned := rfl
  otherCanonical := rfl
  context := rfl
  unmasked := rfl
  channels := rfl
  pool :=
    { size := fun _ => rfl
      none := fun h => by cases h
      shape := by
        intro b hb
        obtain ⟨i, hi⟩ := List.mem_iff_getElem?.mp hb
        obtain ⟨h8, rfl⟩ := twoBufs_get hi
        refine ⟨rfl, by simp only [Buffer.aligned, Bool.and_eq_true, decide_eq_true_eq]; omega, ?_⟩
        have hf : frameBytes = 614408 := rfl
        simp only [Buffer.inReach, hf, decide_eq_true_eq]
        omega
      apart := by
        intro i j a b hij ha hb
        obtain ⟨-, rfl⟩ := twoBufs_get ha
        obtain ⟨-, rfl⟩ := twoBufs_get hb
        have hf : frameBytes = 614408 := rfl
        simp only [buffersApart, hf, Bool.and_eq_true, decide_eq_true_eq]
        omega
      encoded := by
        intro b hb he
        obtain ⟨i, hi⟩ := List.mem_iff_getElem?.mp hb
        obtain ⟨-, rfl⟩ := twoBufs_get hi
        exact ⟨_, holdsFrame_streaming _ _ _ _ _ (of_decide_eq_true he)⟩ }
  encode := ⟨fun _ h => (by cases h), fun _ h => (by cases h), fun _ h => (by cases h), fun _ h => (by cases h)⟩
  half := fun h => (by cases h)
  channel := by
    intro x hx
    have hx : x = ch := by simpa [streaming, steady] using hx
    subst hx
    rcases h with rfl | rfl
    · exact ⟨fun _ => ⟨rfl, rfl, rfl⟩, Nat.zero_le _, fun _ => ⟨rfl, (by decide), rfl⟩, fun _ => .inl rfl,
        fun _ => rfl, rfl⟩
    · exact ⟨fun _ => ⟨rfl, rfl, rfl⟩, Nat.le_refl _, fun h => (by cases h), fun h => (by cases h),
        fun h => (by cases h), rfl⟩
  armed :=
    { index := ⟨fun _ => rfl, fun _ => rfl⟩
      source := by
        intro k hk
        cases hk
        refine ⟨_, rfl, rfl, ?_⟩
        intro x hx
        have hx : x = ch := by simpa [streaming, steady] using hx
        subst hx
        rcases h with rfl | rfl <;> exact ⟨rfl, rfl⟩
      attached := fun _ => rfl }
  bringup := ⟨fun _ => rfl, fun _ => rfl, fun _ => rfl, fun _ => ⟨rfl, Nat.le_refl 1⟩⟩

/-- It holds too while the producer owes the publish of buffer 1, whatever the pixels are. -/
theorem inv_owing (pix : PixelBuffer) (h1 : Memory.wf pix.mem = true) (h2 : pix.base % 2 = 0) :
    Inv { streaming (chan true false 0) none with producer := ⟨none, 76800, [], some 1, none⟩, pix := pix } :=
  have h := inv_streaming (chan true false 0) none (.inl rfl)
  { txCanonical := h.txCanonical
    pixCanonical := h1
    pixAligned := h2
    otherCanonical := rfl
    context := rfl
    unmasked := rfl
    channels := rfl
    pool := ⟨h.pool.1, h.pool.2, h.pool.3, h.pool.4, h.pool.5⟩
    encode := by
      refine ⟨fun _ h => (by cases h), fun _ h => (by cases h), fun _ h => (by cases h), fun k hk => ?_⟩
      cases hk
      exact .inr ⟨rfl, fun h => (by cases h), fun h => (by cases h), _, rfl, rfl⟩
    half := fun h => (by cases h)
    channel := fun ch hm => ⟨(h.channel ch hm).1, (h.channel ch hm).2, (h.channel ch hm).3, (h.channel ch hm).4,
      (h.channel ch hm).5, (h.channel ch hm).6⟩
    armed := ⟨h.armed.1, h.armed.2, h.armed.3⟩
    bringup := ⟨h.bringup.1, h.bringup.2, h.bringup.3, h.bringup.4⟩ }

/-- SteadyStateNeverFails, for the producer: it owes a publish, and every pixel holds a value. -/
theorem witness_SteadyStateNeverFails_producer :
    let s := { streaming (chan true false 0) none with producer := ⟨none, 76800, [], some 1, none⟩, pix := blackPix }
    Inv s ∧ configProblem s.cfg = none ∧ s.bringup = .armed ∧ producerBusy s = true ∧ ∀ i < nPix, ∃ p, readPixel s i = some p :=
  ⟨inv_owing _ (wf_spanFrom _ _ _) rfl, by decide, rfl, rfl, fun i hi => ⟨0, witness_WholeFrameIsEncoded.2.2.2.2.2.2.2.2 i hi⟩⟩

/-- SteadyStateNeverFails and ArmedBufferIsNeverMutated: streaming, and a completion awaiting the handler. -/
theorem witness_SteadyStateNeverFails :
    Inv (streaming (chan true false 0) none) ∧ Inv (streaming (chan false true 153602) (some 1)) ∧
    (streaming (chan false true 153602) (some 1)).pool.bufs[1]? = some ⟨1048576, 1048576, bufWords, true⟩ ∧ Inv (streaming (chan false true 153602) none) ∧
    configProblem (streaming (chan true false 0) none).cfg = none ∧
    (streaming (chan true false 0) none).bringup = .armed ∧
    (streaming (chan true false 0) none).pool.armed = some 0 ∧
    (streaming (chan false true 153602) none).pool.pendingNext = none :=
  ⟨inv_streaming _ _ (.inl rfl), inv_streaming _ _ (.inr rfl), rfl, inv_streaming _ _ (.inr rfl), by decide, rfl, rfl, rfl⟩

/-- ArmedBufferIsNeverMutated: the step of an idle inbox is the handler's, and stays armed. -/
theorem witness_ArmedBufferIsNeverMutated :
    Inv (streaming (chan false true 153602) none) ∧ (streaming (chan false true 153602) none).pool.armed = some 0 ∧
    (streaming (chan false true 153602) none).pool.bufs[0]? = some ⟨0, 0, bufWords, true⟩ ∧
    ∃ t, step (streaming (chan false true 153602) none) = .next t ∧ t.bringup = .armed :=
  ⟨inv_streaming _ _ (.inr rfl), rfl, rfl, _, rfl, rfl⟩

/-- SwapOnlyAtFrameBoundary: the step of an idle inbox is the handler's, which arms the published buffer. -/
theorem witness_SwapOnlyAtFrameBoundary :
    Inv (streaming (chan false true 153602) (some 1)) ∧ (streaming (chan false true 153602) (some 1)).bringup = .armed ∧
    ∃ t, step (streaming (chan false true 153602) (some 1)) = .next t ∧ t.bringup = .armed ∧ t.pool.armed = some 1 ∧
      (streaming (chan false true 153602) (some 1)).pool.armed = some 0 :=
  ⟨inv_streaming _ _ (.inr rfl), rfl, _, rfl, rfl, rfl, rfl⟩

/-- StepKeepsTheInvariant, InterruptLostIsNotReached: a state of the invariant with a next state. -/
theorem witness_StepKeepsTheInvariant :
    Inv (streaming (chan false true 153602) none) ∧ ∃ t, step (streaming (chan false true 153602) none) = .next t :=
  ⟨inv_streaming _ _ (.inr rfl), _, rfl⟩

end Sys2Proof.Machine.Slice0Tests
end

section
/-! PROOFS of the statements of 00_scope: the check of the pin map is R8, and a step runs the decoded instruction. -/

namespace Sys2Proof

/-- When no bit of the named parts is 1 in `BASE`, the two have none in common (R8). -/
theorem base_and_fieldMask_eq_zero {c : Config}
    (h : ∀ p < 32, (fieldMask c).getLsbD p = true → c.base.getLsbD p = false) : c.base &&& fieldMask c = 0 := by
  apply BitVec.eq_of_getLsbD_eq
  intro p hp
  simp only [BitVec.getLsbD_and, BitVec.ofNat_eq_ofNat, BitVec.getLsbD_zero, Bool.and_eq_false_iff]
  cases hm : (fieldMask c).getLsbD p with
  | true => exact .inl (h p hp hm)
  | false => exact .inr rfl

/-- A position of one of the four sets of R8: field A, field B, the strobe, the marker. -/
def NamedPosition (c : Config) (p : Nat) : Prop :=
  (c.aLsb ≤ p ∧ p ≤ c.aLsb + 7) ∨ (c.bLsb ≤ p ∧ p ≤ c.bLsb + 7) ∨ p = c.strobePos ∨ p = c.dcPos

/-- The named parts of a word (R92), as the four sets of positions of R8. -/
theorem fieldMask_getLsbD_iff (c : Config) {p : Nat} (hp : p < 32) :
    (fieldMask c).getLsbD p = true ↔ NamedPosition c p := by
  rw [fieldMask_getLsbD c p hp]
  simp only [NamedPosition, Bool.or_eq_true, Bool.and_eq_true, decide_eq_true_eq]
  omega

/-- A well-formed pin map names positions in 0..31 only, and `BASE` is 0 there. -/
theorem PinMapFacts.named {c : Config} (h : PinMapFacts c) {p : Nat}
    (hp : NamedPosition c p) : p ≤ 31 ∧ c.base.getLsbD p = false := by
  have hlt : p < 32 := by
    unfold NamedPosition at hp
    have ha := h.aRange
    have hb := h.bRange
    have hs := h.sRange
    have hd := h.dRange
    omega
  exact ⟨Nat.le_of_lt_succ hlt, h.base_getLsbD p ((fieldMask_getLsbD_iff c hlt).2 hp)⟩

/-- `PinMapFacts` from the sets of R8: the ranges come from the last position of each set, the disjointness of the
two fields from the greater of their first positions. -/
theorem PinMapFacts.of_sets {c : Config}
    (hnamed : ∀ p, NamedPosition c p → p ≤ 31 ∧ c.base.getLsbD p = false)
    (hab : ∀ p, ¬ ((c.aLsb ≤ p ∧ p ≤ c.aLsb + 7) ∧ (c.bLsb ≤ p ∧ p ≤ c.bLsb + 7)))
    (hsa : ¬ (c.aLsb ≤ c.strobePos ∧ c.strobePos ≤ c.aLsb + 7))
    (hsb : ¬ (c.bLsb ≤ c.strobePos ∧ c.strobePos ≤ c.bLsb + 7))
    (hda : ¬ (c.aLsb ≤ c.dcPos ∧ c.dcPos ≤ c.aLsb + 7))
    (hdb : ¬ (c.bLsb ≤ c.dcPos ∧ c.dcPos ≤ c.bLsb + 7))
    (hsd : c.strobePos ≠ c.dcPos) : PinMapFacts c where
  aRange := Nat.lt_succ_of_le (hnamed (c.aLsb + 7) (.inl ⟨Nat.le_add_right .., le_rfl⟩)).1
  bRange := Nat.lt_succ_of_le (hnamed (c.bLsb + 7) (.inr (.inl ⟨Nat.le_add_right .., le_rfl⟩))).1
  sRange := Nat.lt_succ_of_le (hnamed c.strobePos (.inr (.inr (.inl rfl)))).1
  dRange := Nat.lt_succ_of_le (hnamed c.dcPos (.inr (.inr (.inr rfl)))).1
  ab := by have := hab (max c.aLsb c.bLsb); omega
  sa := by omega
  sb := by omega
  da := by omega
  db := by omega
  sd := hsd
  base := base_and_fieldMask_eq_zero fun p hp hm => (hnamed p ((fieldMask_getLsbD_iff c hp).1 hm)).2

end Sys2Proof

namespace Sys2Proof.Machine

/-- The pin map is the first thing the check of a configuration looks at (R8). -/
theorem configProblem_of_pinMap {c : Config} (h : pinMapOk c = false) : configProblem c = some .pinMapIllFormed := by
  simp only [configProblem, h, Bool.not_false, if_true]

/-- Settles O54: `pinMapOk` is `PinMapFacts`, which are the sets of R8; without them `configProblem` refuses the step. -/
theorem illFormedPinMapIsRefused : Obligations.IllFormedPinMapIsRefused := by
  refine ⟨fun c => (pinMapOk_iff c).trans ⟨fun h => ?_, ?_⟩, fun s h => step_refused (configProblem_of_pinMap h),
    by decide⟩
  · refine ⟨fun p => h.named, ?_⟩
    obtain ⟨-, -, -, -, hab, hsa, hsb, hda, hdb, hsd, -⟩ := h
    exact ⟨by omega, by omega, by omega, by omega, by omega, hsd⟩
  · rintro ⟨hnamed, hab, hsa, hsb, hda, hdb, hsd⟩
    exact .of_sets hnamed hab hsa hsb hda hdb hsd

/-- The producer is free when it encodes nothing, owes no publish and has no operation to finish. -/
theorem producerBusy_eq_false_iff (s : State) :
    producerBusy s = false ↔
      s.producer.encoding = none ∧ s.producer.thenPublish = none ∧ s.producer.halfWrite = none := by
  simp only [producerBusy, Bool.or_eq_false_iff, Option.isSome_eq_false_iff, Option.isNone_iff_eq_none, and_assoc]

/-- With no completion to deliver the producer's move is its own work. -/
theorem producerMoves_of {s : State} (h : deliverable s = none) : producerMoves s = producerWork s := by
  unfold producerMoves
  rw [h]

/-- With a code first in the inbox the step fetches it. -/
theorem step_code {s : State} {code : Code} {rest : List Event} (hc : configProblem s.cfg = none)
    (hi : s.inbox = codeEvent code :: rest) : step s = runCode code rest s :=
  (step_event hc hi).trans (runEvent_code code rest s)

/-- An operation of a busy producer waits: the step is the producer's own work, unless a completion comes first. -/
theorem step_waiting {s : State} {code : Code} {rest : List Event} {i : Instr} {tail : List Byte}
    (hc : configProblem s.cfg = none) (hi : s.inbox = codeEvent code :: rest)
    (hd : decode s.cfg code = .ok (i, tail)) (hp : isProducers i = true) (hn : deliverable s = none)
    (hb : producerBusy s = true) : step s = producerWork s :=
  (step_code hc hi).trans ((runCode_busy rest hd hb hp).trans (producerMoves_of hn))

/-- Settles O60: an operation that need not wait runs by `runCode_free`; one that waits leaves the step to
`producerWork`, which each of the three kinds of unfinished work decides. (That `QUERY_INFLIGHT` is among those that
never wait is notes/assumptions/40.md.) -/
theorem stepRunsTheDecodedInstruction : Obligations.StepRunsTheDecodedInstruction := by
  intro s code rest i tail hc hi hd
  refine ⟨fun hfree => ?_, fun hp hn => ?_⟩
  · rw [step_code hc hi, runCode_free rest hd (hfree.imp_left (producerBusy_eq_false_iff s).2)]
    rfl
  · have waits : producerBusy s = true → step s = producerWork s := step_waiting hc hi hd hp hn
    refine ⟨fun he => ?_, fun he k hk => ?_, fun he hk h hh => ?_⟩
    · rw [waits (by simp only [producerBusy, he, Bool.true_or]), producerWork_encoding he]
    · rw [waits (by simp only [producerBusy, hk, Option.isSome_some, Bool.or_true, Bool.true_or]),
        producerWork_publish he hk]
      rfl
    · rw [waits (by simp only [producerBusy, hh, Option.isSome_some, Bool.or_true]), producerWork_half he hk hh]

end Sys2Proof.Machine
end

section
/-! PROOFS of the statements of 10_state: the state after reset, who writes the slots, the registration and the error
record, the collaborator's pixel write, and that no step changes the armed buffer. -/

namespace Sys2Proof.Machine

/-! ### Reset and the collaborator -/

/-- Settles O53: the fields of `State.resetWith` are read off; every channel is `Channel.reset`. -/
theorem stateAfterReset : Obligations.StateAfterReset := by
  refine ⟨rfl, fun c => ⟨rfl, rfl, rfl, List.length_replicate, fun ch hch => ?_,
    rfl, rfl, rfl, rfl, rfl, rfl, rfl, rfl, rfl, rfl, fun _ => ⟨rfl, rfl⟩⟩⟩
  obtain rfl := List.eq_of_mem_replicate hch
  exact ⟨rfl, rfl, rfl⟩

/-- A channel after reset is a good one: it is not configured and does not run (10_state R40). -/
theorem channelGood_reset (s : State) : ChannelGood s Channel.reset where
  fixed h := nomatch h
  position := Nat.zero_le _
  running h := nomatch h
  strobe h := nomatch h
  acknowledged h := nomatch h
  kept := rfl

/-- The invariant holds after reset: there is no pool, nothing is encoded or armed, and bring-up has not begun. -/
theorem inv_resetWith (c : Config) : Inv (State.resetWith c) where
  txCanonical := rfl
  pixCanonical := rfl
  pixAligned := rfl
  otherCanonical := rfl
  context := rfl
  unmasked := rfl
  channels := List.length_replicate
  pool :=
    { size := fun h => nomatch h
      none := fun _ => ⟨rfl, rfl⟩
      shape := fun _ h => nomatch h
      apart := fun _ _ _ _ _ h => nomatch h
      encoded := fun _ h => nomatch h }
  encode :=
    { position := fun _ h => nomatch h
      buffer := fun _ h => nomatch h
      idle := fun _ h => nomatch h
      publish := fun _ h => nomatch h }
  half := fun h => nomatch h
  channel := fun _ hch => List.eq_of_mem_replicate hch ▸ channelGood_reset _
  armed :=
    { index := ⟨fun h => (nomatch h), fun h => (nomatch h)⟩
      source := fun _ h => nomatch h
      attached := fun h => nomatch h }
  bringup :=
    { clocks := fun h => nomatch h
      pins := fun h => nomatch h
      timing := fun h => nomatch h
      wellFormed := fun h => nomatch h }

/-- Settles O52: `inv_resetWith`, of which the reference binding is one case. -/
theorem resetMeetsTheInvariant : Obligations.ResetMeetsTheInvariant :=
  ⟨inv_resetWith Config.reference, inv_resetWith⟩

/-- Settles O55: the event is a 16-bit write at the pixel's address, and the pixels share no byte. -/
theorem collaboratorWritesOnePixel : Obligations.CollaboratorWritesOnePixel := by
  intro s i p rest hc hi hin
  refine ⟨{ s with
      inbox := rest
      pix := { s.pix with mem := write16 s.cfg.endian s.pix.mem (s.pix.base + 2 * i) p } },
    ?_, read16_write16_same _ _ _ _, fun j hj => ?_, fun a h0 h1 => ?_, rfl, rfl⟩
  · exact (step_event hc hi).trans (if_pos hin)
  · have apart :
        s.pix.base + 2 * j + 2 ≤ s.pix.base + 2 * i ∨ s.pix.base + 2 * i + 2 ≤ s.pix.base + 2 * j := by omega
    exact read16_write16_other _ _ _ _ apart
  · exact memRead_write16_other _ _ _ _ (by omega)

/-! ### What an operation does to the pool, transfer space, the registration and the error record -/

/-- The part of the state that the writers of the slots, the registration and the error record share. The fields of the
agents and of the peripheral blocks are left out, so that two states that differ in those alone have the same holdings
by definition. -/
structure Holdings where
  pool : Pool
  txMem : Memory
  attached : Bool
  err : Option PipeError
  bringup : Bringup

/-- The holdings of a state. -/
def State.holdings (s : State) : Holdings := ⟨s.pool, s.txMem, s.irq.attached, s.err, s.bringup⟩

/-- A `PINDATA` write, by a word or by the engine, leaves the holdings. -/
theorem pinWrite_holdings {w : Word} {s t : State} (h : pinWrite w s = .next t) : t.holdings = s.holdings := by
  obtain ⟨-, -, rfl⟩ := pinWrite_eq_next.1 h
  rfl

theorem emitWords_holdings {lo hi : Word} {s t : State} (h : emitWords lo hi s = .next t) :
    t.holdings = s.holdings := by
  obtain ⟨-, -, u, hlo, hhi⟩ := emitWords_eq_next.1 h
  exact (pinWrite_holdings hhi).trans (pinWrite_holdings hlo)

theorem emitItems_holdings {items : List PanelItem} {s t : State} (h : emitItems items s = .next t) :
    t.holdings = s.holdings := by
  induction items generalizing s with
  | nil => cases h; rfl
  | cons it items ih =>
    obtain ⟨u, hu, hrest⟩ := andThen_eq_next.1 h
    exact (ih hrest).trans (emitWords_holdings hu)

theorem stop_holdings {c : Nat} {s t : State} (h : stop c s = .next t) : t.holdings = s.holdings := by
  obtain ⟨ch, -, rfl⟩ := stop_eq_next.1 h
  rfl

theorem acknowledge_holdings {c : Nat} {s t : State} (h : acknowledge c s = .next t) : t.holdings = s.holdings := by
  obtain ⟨ch, -, rfl⟩ := acknowledge_eq_next.1 h
  rfl

theorem configure_holdings {c k : Nat} {s t : State} (h : configure c k s = .next t) : t.holdings = s.holdings := by
  obtain ⟨ch, b, hc, -, -, -, -, -, -, rfl⟩ := configure_eq_next.1 h
  obtain ⟨as, heq, -⟩ := configuredState_eq hc b
  rw [heq]
  rfl

theorem start_holdings {c : Nat} {s t : State} (h : start c s = .next t) : t.holdings = s.holdings := by
  obtain ⟨ch, hc, ⟨-, rfl⟩ | ⟨-, -, -, -, rfl⟩⟩ := start_eq_next.1 h
  · rfl
  · obtain ⟨as, heq, -⟩ := startedState_eq hc
    rw [heq]
    rfl

theorem rearm_holdings {c k : Nat} {s t : State} (h : rearm c k s = .next t) : t.holdings = s.holdings := by
  obtain ⟨u, v, hack, hconf, hstart⟩ := rearm_eq_next.1 h
  exact (start_holdings hstart).trans ((configure_holdings hconf).trans (acknowledge_holdings hack))

theorem writeHalf_holdings (h : HalfWrite) (s : State) : (writeHalf h s).holdings = s.holdings := by
  obtain ⟨as, heq, -⟩ := writeHalf_eq h s
  rw [heq]
  simp [State.holdings]

/-- The pair of words `j`, `j+1` of buffer `k`, which is not armed, is written: the record of that buffer and its bytes
from word `j` to word `j+1` are all that changes (41_frame_ops R130, R136). -/
inductive WritesPair (k j : Nat) (a b : Holdings) : Prop
  | intro (x y : Buffer) (m : Memory) (found : a.pool.bufs[k]? = some x) (idle : a.pool.armed ≠ some k)
    (outside : ∀ n, n < x.physBase + 4 * j ∨ x.physBase + 4 * (j + 2) ≤ n → memRead m n = memRead a.txMem n)
    (h : b = { a with pool := { a.pool with bufs := a.pool.bufs.set k y }, txMem := m })

/-- What an instruction can do to the holdings, from `a` to `b`. -/
inductive Effect (a b : Holdings) : Instr → Prop
  /-- nothing, but that bring-up may advance -/
  | keeps (i : Instr) (y : Bringup) (h : b = { a with bringup := y }) : Effect a b i
  /-- the first arm (42_timing_and_bringup R156) -/
  | arms (c k : Nat) (source : a.bringup = .streamingCommand)
    (h : b = { a with pool := { a.pool with armed := some k }, bringup := .armed }) : Effect a b (.brgArm c k)
  /-- the publish (43_pool_and_dma R197) -/
  | publishes (k : Nat) (h : b = { a with pool := { a.pool with pendingNext := some k } }) :
    Effect a b (.publishNext k)
  /-- the handler arms the published buffer, or `same` again, and empties the slot (60_exceptions R222) -/
  | swaps (c same : Nat) (was : a.pool.armed = some same)
    (h : b = { a with pool := { a.pool with armed := some (a.pool.pendingNext.getD same), pendingNext := none } }) :
    Effect a b (.irqFrame c)
  /-- step 0 of an encode (41_frame_ops R135) -/
  | encodes (k : Nat) (h : WritesPair k 0 a b) : Effect a b (.encFrame k)
  /-- GeometryMismatch is recorded (R134, R154) -/
  | mismatches (i : Instr) (raiser : (∃ k, i = .encFrame k) ∨ ∃ o, i = .tconCfg o) (e : PipeError)
    (h : b = { a with err := some e }) : Effect a b i
  /-- a pool is allocated, or AllocationFailure is recorded (43_pool_and_dma R180, R181) -/
  | allocates (x : Bool) (bufs : List Buffer) (e : Option PipeError) (free : a.pool.allocated = false)
    (record : e = a.err ∨ e ≠ none)
    (h : b = { a with pool := { a.pool with allocated := x, bufs := bufs }, txMem := [], err := e }) :
    Effect a b .poolAlloc
  /-- the pool is released, with nothing armed (R185, R266) -/
  | frees (idle : a.pool.armed = none)
    (h : b = { a with pool := { a.pool with allocated := false, bufs := [] }, txMem := [] }) : Effect a b .poolFree
  /-- the pipeline ends (42_timing_and_bringup R158, R250) -/
  | ends (bringup : b.bringup = .unconfigured) (armed : b.pool.armed = none) (pending : b.pool.pendingNext = none)
    (attached : b.attached = false) : Effect a b .teardown

/-- An operation that leaves the holdings. -/
theorem Effect.of_eq {a b : Holdings} {i : Instr} (h : b = a) : Effect a b i := .keeps i a.bringup h

/-- An operation that returns to its caller after a part that leaves the holdings. -/
theorem Effect.of_returning {r : Ret} {o : Out} {s t : State} {i : Instr}
    (hkept : ∀ u, o = .next u → u.holdings = s.holdings) (h : returning r o = .next t) :
    Effect s.holdings t.holdings i := by
  obtain ⟨u, hu, rfl⟩ := returning_eq_next.1 h
  exact .of_eq (hkept u hu)

/-- An error is recorded, and nothing else changes but what is returned (10_state R36). -/
theorem raiseError_holdings {e : PipeError} {s t : State} (h : raiseError e s = .next t) :
    t.holdings = { s.holdings with err := some e } := by
  cases h
  rfl

/-! ### The effect of each instruction -/

theorem brgClocks_effect {s t : State} (h : execBrgClocks s = .next t) : Effect s.holdings t.holdings .brgClocks := by
  obtain ⟨-, -, -, ho⟩ := bringupFrom_eq_next.1 h
  cases ho
  exact .keeps _ .clocksEnabled (by simp [State.holdings])

theorem brgPins_effect {s t : State} (h : execBrgPins s = .next t) : Effect s.holdings t.holdings .brgPins := by
  obtain ⟨-, -, -, ho⟩ := bringupFrom_eq_next.1 h
  cases ho
  exact .keeps _ .pinsConfigured (by simp [State.holdings])

theorem tconCfg_effect {o : TimingOperand} {s t : State} (h : execTconCfg o s = .next t) :
    Effect s.holdings t.holdings (.tconCfg o) := by
  obtain ⟨-, -, -, ho⟩ := bringupFrom_eq_next.1 h
  split at ho
  · cases ho
  · split at ho
    · exact .mismatches _ (.inr ⟨o, rfl⟩) _ (raiseError_holdings ho)
    · split at ho
      · cases ho
      · cases ho
        exact .keeps _ .timingConfigured (by simp [State.holdings])

theorem brgInit_effect {items : PanelOperand} {s t : State} (h : execBrgInit items s = .next t) :
    Effect s.holdings t.holdings (.brgInit items) := by
  obtain ⟨-, -, -, ho⟩ := bringupFrom_eq_next.1 h
  split at ho
  · cases ho
  · obtain ⟨u, hu, hlast⟩ := andThen_eq_next.1 ho
    cases hlast
    exact .keeps _ .streamingCommand (congrArg (fun a : Holdings => { a with bringup := .streamingCommand })
      (emitItems_holdings hu))

theorem brgArm_effect {c k : Nat} {s t : State} (h : execBrgArm c k s = .next t) :
    Effect s.holdings t.holdings (.brgArm c k) := by
  obtain ⟨-, hb, -, ho⟩ := bringupFrom_eq_next.1 h
  obtain ⟨-, -, b, -, ho⟩ := withBuf_eq_next.1 ho
  split at ho
  · cases ho
  · split at ho
    · cases ho
    · obtain ⟨u, hconf, ho⟩ := andThen_eq_next.1 ho
      obtain ⟨v, hstart, hlast⟩ := andThen_eq_next.1 ho
      cases hlast
      exact .arms c k hb (congrArg
        (fun a : Holdings => { a with pool := { a.pool with armed := some k }, bringup := .armed })
        ((start_holdings hstart).trans (configure_holdings hconf)))

/-- What is done after the stops of a `TEARDOWN` (R158, R250). -/
theorem teardownRest_effect {a : Holdings} {s t : State} (h : teardownRest s = .next t) :
    Effect a t.holdings .teardown := by
  obtain ⟨u, hfree, hlast⟩ := andThen_eq_next.1 h
  cases hlast
  obtain ⟨-, ⟨-, rfl⟩ | ⟨-, rfl⟩⟩ := freePool_eq_next.1 hfree
  · exact .ends rfl rfl rfl rfl
  · exact .ends rfl rfl rfl rfl

theorem teardown_effect {s t : State} (h : execTeardown s = .next t) : Effect s.holdings t.holdings .teardown := by
  obtain ⟨-, ho⟩ := processOnly_eq_next.1 h
  obtain ⟨u, -, hrest⟩ := andThen_eq_next.1 ho
  exact teardownRest_effect hrest

theorem poolAlloc_effect {s t : State} (h : execPoolAlloc s = .next t) : Effect s.holdings t.holdings .poolAlloc := by
  obtain ⟨-, ho⟩ := processOnly_eq_next.1 h
  split at ho
  · cases ho
  · rename_i hfree
    have hfree : s.pool.allocated = false := by simpa using hfree
    split at ho
    · exact .allocates s.pool.allocated [] _ hfree (.inr (by simp)) (raiseError_holdings ho)
    · split at ho
      · cases ho
      · split at ho
        · cases ho
        · split at ho
          · cases ho
          · cases ho
            exact .allocates true _ s.err hfree (.inl rfl) rfl

theorem poolFree_effect {s t : State} (h : execPoolFree s = .next t) : Effect s.holdings t.holdings .poolFree := by
  obtain ⟨-, ho⟩ := processOnly_eq_next.1 h
  obtain ⟨u, hfree, rfl⟩ := returning_eq_next.1 ho
  obtain ⟨hsafe, ⟨-, rfl⟩ | ⟨-, rfl⟩⟩ := freePool_eq_next.1 hfree
  · exact .of_eq rfl
  · simp only [freeHazard, Bool.or_eq_false_iff, Option.isSome_eq_false_iff, Option.isNone_iff_eq_none] at hsafe
    obtain ⟨⟨harmed, -⟩, -⟩ := hsafe
    exact .frees harmed rfl

theorem publishNext_effect {k : Nat} {s t : State} (h : execPublishNext k s = .next t) :
    Effect s.holdings t.holdings (.publishNext k) := by
  obtain ⟨-, ho⟩ := processOnly_eq_next.1 h
  obtain ⟨-, -, b, -, ho⟩ := withBuf_eq_next.1 ho
  split at ho
  · cases ho
  · split at ho
    · cases ho
    · cases ho
      exact .publishes k rfl

/-- The channel configured as an operation is the handler's (R226, R267). -/
theorem dmaConfigure_effect {c k : Nat} {s t : State} (h : execDmaConfigure c k s = .next t) :
    Effect s.holdings t.holdings (.dmaConfigure c k) :=
  .of_returning (fun _ => configure_holdings) (handlerOnly_eq_next.1 h).2

theorem dmaRearm_effect {c k : Nat} {s t : State} (h : execDmaRearm c k s = .next t) :
    Effect s.holdings t.holdings (.dmaRearm c k) :=
  .of_returning (fun _ => rearm_holdings) (handlerOnly_eq_next.1 h).2

theorem dmaStop_effect {c : Nat} {s t : State} (h : execDmaStop c s = .next t) :
    Effect s.holdings t.holdings (.dmaStop c) :=
  .of_returning (fun _ => stop_holdings) (processOnly_eq_next.1 h).2

/-- The engine's step leaves the holdings: it reads transfer space and does not write it (R192). -/
theorem dmaXfer_holdings {c : Nat} {s t : State} (h : execDmaXfer c s = .next t) : t.holdings = s.holdings := by
  obtain ⟨ch, -, ho⟩ := withChan_eq_next.1 h
  split at ho
  · split at ho
    · cases ho
    · split at ho
      · cases ho
      · split at ho
        · cases ho
        · obtain ⟨u, hu, hlast⟩ := andThen_eq_next.1 ho
          have kept := pinWrite_holdings hu
          cases hlast
          exact kept
  · cases ho

/-- The buffer that is written is not armed (R136, R261). -/
theorem armed_ne_of_bufferInUse {s : State} {k : Nat} {b : Buffer} (h : bufferInUse s k b = false) :
    s.pool.armed ≠ some k := by
  simp only [bufferInUse, Bool.or_eq_false_iff, decide_eq_false_iff_not] at h
  obtain ⟨⟨harmed, -⟩, -⟩ := h
  exact harmed

/-- A pair written over a new record of its buffer (R130). -/
theorem writesPair_writeTxPair {s : State} {k : Nat} {b : Buffer} (y : Buffer) (f : Producer → Producer) (j : Nat)
    (pair : Word × Word) (hb : s.pool.bufs[k]? = some b) (huse : bufferInUse s k b = false) :
    WritesPair k j s.holdings (writeTxPair b j pair ((s.setBuf k y).modProducer f)).holdings :=
  .intro b y _ hb (armed_ne_of_bufferInUse huse) (fun _ hn => memRead_writeTxPair b j pair s hn) rfl

theorem encFrame_effect {k : Nat} {s t : State} (h : execEncFrame k s = .next t) :
    Effect s.holdings t.holdings (.encFrame k) := by
  obtain ⟨-, ho⟩ := processOnly_eq_next.1 h
  obtain ⟨-, ho⟩ := ifIndexed_eq_next.1 ho
  split at ho
  · cases ho
  · split at ho
    · exact .mismatches _ (.inl ⟨k, rfl⟩) _ (raiseError_holdings ho)
    · obtain ⟨-, -, b, hb, ho⟩ := withBuf_eq_next.1 ho
      split at ho
      · exact .mismatches _ (.inl ⟨k, rfl⟩) _ (raiseError_holdings ho)
      · split at ho
        · cases ho
        · rename_i huse
          cases ho
          exact .encodes k (writesPair_writeTxPair _ _ 0 _ hb (by simpa using huse))

/-- A further step of the encode in progress writes the pair of its pixel (R135). -/
theorem encodeStep_writesPair {s t : State} (h : encodeStep s = .next t) :
    ∃ k, s.producer.encoding = some k ∧ WritesPair k (2 + 2 * s.producer.encIdx) s.holdings t.holdings := by
  unfold encodeStep at h
  split at h
  · cases h
  · rename_i k hk
    obtain ⟨-, -, b, hb, ho⟩ := withBuf_eq_next.1 h
    split at ho
    · cases ho
    · rename_i huse
      split at ho
      · cases ho
      · cases ho
        exact ⟨k, hk, writesPair_writeTxPair _ _ _ _ hb (by simpa using huse)⟩

/-- A handler run is entered with a buffer armed, does its body in interrupt context and returns (R221, R222, R224). -/
theorem irqFrame_inv {c : Nat} {s t : State} (h : execIrqFrame c s = .next t) :
    ∃ same u, s.pool.armed = some same ∧ handlerBody c same (enterHandler s) = .next u ∧ t = leaveHandler u := by
  obtain ⟨ch, -, ho⟩ := withChan_eq_next.1 h
  split at ho
  · cases ho
  · split at ho
    · cases ho
    · split at ho
      · cases ho
      · split at ho
        · cases ho
        · split at ho
          · cases ho
          · split at ho
            · cases ho
            · rename_i same hsame
              obtain ⟨u, hu, hlast⟩ := andThen_eq_next.1 ho
              cases hlast
              exact ⟨same, u, hsame, hu, rfl⟩

/-- The handler's body swaps the armed buffer and empties the slot (R222). -/
theorem handlerBody_holdings {c same : Nat} {s t : State} (h : handlerBody c same s = .next t) :
    t.holdings = (markArmed (nextArmed s same) (takePending s)).holdings := by
  obtain ⟨u, hack, hrearm⟩ := andThen_eq_next.1 h
  have swapped := rearm_holdings hrearm
  obtain ⟨ch, -, rfl⟩ := acknowledge_eq_next.1 hack
  exact swapped

theorem irqFrame_effect {c : Nat} {s t : State} (h : execIrqFrame c s = .next t) :
    Effect s.holdings t.holdings (.irqFrame c) := by
  obtain ⟨same, u, harmed, hbody, rfl⟩ := irqFrame_inv h
  have swapped := handlerBody_holdings hbody
  exact .swaps c same harmed swapped

/-- What every instruction can do to the holdings. -/
theorem exec_effect {i : Instr} {s t : State} (h : exec i s = .next t) : Effect s.holdings t.holdings i := by
  cases i with
  | cmdLo v => exact .of_eq (pinWrite_holdings h)
  | cmdHi v => exact .of_eq (pinWrite_holdings h)
  | datLo v => exact .of_eq (pinWrite_holdings h)
  | datHi v => exact .of_eq (pinWrite_holdings h)
  | encCmd b => cases h; exact .of_eq rfl
  | encPix p => cases h; exact .of_eq rfl
  | decWord w => cases h; exact .of_eq rfl
  | emitPair lo hi => exact .of_returning (fun _ => emitWords_holdings) h
  | encFrame k => exact encFrame_effect h
  | brgClocks => exact brgClocks_effect h
  | brgPins => exact brgPins_effect h
  | tconCfg o => exact tconCfg_effect h
  | brgInit items => exact brgInit_effect h
  | brgArm c k => exact brgArm_effect h
  | teardown => exact teardown_effect h
  | poolAlloc => exact poolAlloc_effect h
  | poolBuf k =>
    obtain ⟨-, -, b, -, ho⟩ := withBuf_eq_next.1 h
    cases ho
    exact .of_eq rfl
  | poolFree => exact poolFree_effect h
  | dmaConfigure c k => exact dmaConfigure_effect h
  | dmaStart c => exact .of_returning (fun _ => start_holdings) h
  | dmaStop c => exact dmaStop_effect h
  | dmaAck c => exact .of_returning (fun _ => acknowledge_holdings) h
  | dmaRearm c k => exact dmaRearm_effect h
  | dmaXfer c => exact .of_eq (dmaXfer_holdings h)
  | publishNext k => exact publishNext_effect h
  | queryInflight => cases h; exact .of_eq rfl
  | irqFrame c => exact irqFrame_effect h

/-- What is left of an operation begun by its read half does what the operation does (20_memory R53 (d)). -/
theorem finishTorn_effect {w : HalfWrite} {s t : State} (h : finishTorn w s = .next t) :
    ∃ i, Effect s.holdings t.holdings i := by
  by_cases hw : w.op = .teardown
  · rw [finishTorn_teardown hw] at h
    obtain ⟨u, -, hrest⟩ := andThen_eq_next.1 h
    exact ⟨.teardown, teardownRest_effect hrest⟩
  · rw [finishTorn_of hw] at h
    cases h
    exact ⟨.dmaStop w.op.channel, .of_eq (writeHalf_holdings w s)⟩

/-! ### Who writes the slots, the registration and the error record -/

namespace Effect

variable {a b : Holdings} {i : Instr}

theorem armed_writers (e : Effect a b i) (hne : b.pool.armed ≠ a.pool.armed) :
    (∃ c k, i = .brgArm c k ∧ a.bringup = .streamingCommand ∧ b.pool.armed = some k) ∨
      (∃ c, i = .irqFrame c ∧ b.pool.armed = a.pool.pendingNext) ∨ (i = .teardown ∧ b.pool.armed = none) := by
  cases e with
  | arms c k source h => subst h; exact .inl ⟨c, k, rfl, source, rfl⟩
  | swaps c same was h =>
    subst h
    refine .inr (.inl ⟨c, rfl, ?_⟩)
    cases hp : a.pool.pendingNext with
    | none => simp [hp, was] at hne
    | some k => rfl
  | ends _ armed => exact .inr (.inr ⟨rfl, armed⟩)
  | encodes k h => obtain ⟨x, y, m, -, -, -, rfl⟩ := h; exact absurd rfl hne
  | keeps _ _ h | publishes _ h | mismatches _ _ _ h | allocates _ _ _ _ _ h | frees _ h =>
    subst h; exact absurd rfl hne

theorem pendingNext_writers (e : Effect a b i) (hne : b.pool.pendingNext ≠ a.pool.pendingNext) :
    (∃ k, i = .publishNext k ∧ b.pool.pendingNext = some k) ∨
      (∃ c, i = .irqFrame c ∧ b.pool.pendingNext = none) ∨ (i = .teardown ∧ b.pool.pendingNext = none) := by
  cases e with
  | publishes k h => subst h; exact .inl ⟨k, rfl, rfl⟩
  | swaps c same was h => subst h; exact .inr (.inl ⟨c, rfl, rfl⟩)
  | ends _ _ pending => exact .inr (.inr ⟨rfl, pending⟩)
  | encodes k h => obtain ⟨x, y, m, -, -, -, rfl⟩ := h; exact absurd rfl hne
  | keeps _ _ h | arms _ _ _ h | mismatches _ _ _ h | allocates _ _ _ _ _ h | frees _ h =>
    subst h; exact absurd rfl hne

theorem attached_writers (e : Effect a b i) (hne : b.attached ≠ a.attached) :
    i = .teardown ∧ b.attached = false := by
  cases e with
  | ends _ _ _ attached => exact ⟨rfl, attached⟩
  | encodes k h => obtain ⟨x, y, m, -, -, -, rfl⟩ := h; exact absurd rfl hne
  | keeps _ _ h | arms _ _ _ h | publishes _ h | swaps _ _ _ h | mismatches _ _ _ h | allocates _ _ _ _ _ h
  | frees _ h =>
    subst h; exact absurd rfl hne

/-- An instruction that writes the error record ends the pipeline or records an error (R36). -/
theorem err_writers (e : Effect a b i) (hne : b.err ≠ a.err) :
    i = .teardown ∨ b.err ≠ none ∧ (i = .poolAlloc ∨ (∃ k, i = .encFrame k) ∨ ∃ o, i = .tconCfg o) := by
  cases e with
  | ends => exact .inl rfl
  | mismatches _ raiser e h => subst h; exact .inr ⟨Option.some_ne_none e, .inr raiser⟩
  | allocates _ _ e _ record h => subst h; exact .inr ⟨record.resolve_left hne, .inl rfl⟩
  | encodes k h => obtain ⟨x, y, m, -, -, -, rfl⟩ := h; exact absurd rfl hne
  | keeps _ _ h | arms _ _ _ h | publishes _ h | swaps _ _ _ h | frees _ h => subst h; exact absurd rfl hne

end Effect

/-- Settles O45: `Effect.err_writers` of the instruction's effect. -/
theorem errorRecordIsSticky : Obligations.ErrorRecordIsSticky := by
  refine ⟨rfl, fun s t i h => ?_⟩
  have writers : t.err ≠ s.err → _ := (exec_effect h).err_writers
  refine ⟨fun hs hi => ?_, fun hne => (writers hne).imp_right (·.2)⟩
  by_cases hne : t.err = s.err
  · exact hne ▸ hs
  · exact ((writers hne).resolve_left hi).1

/-! ### What a step does to the holdings -/

/-- What a step can do to the holdings of `s`: attach the handler, the first event of its inbox; the effect of an
instruction; or the pair of the next pixel of the encode in progress. A step that leaves the holdings is among the
effects. -/
inductive StepEffect (s : State) (b : Holdings) : Prop
  | attaches (rest : List Event) (first : s.inbox = .attach :: rest) (h : b = { s.holdings with attached := true })
  | instr (i : Instr) (h : Effect s.holdings b i)
  | encodes (k : Nat) (now : s.producer.encoding = some k) (h : WritesPair k (2 + 2 * s.producer.encIdx) s.holdings b)

/-- A step that leaves the holdings. -/
theorem StepEffect.of_eq {s : State} {b : Holdings} (h : b = s.holdings) : StepEffect s b :=
  .instr .queryInflight (.of_eq h)

/-- An instruction run in a state with the same holdings. -/
theorem StepEffect.of_exec {i : Instr} {s u t : State} (h : exec i u = .next t) (same : u.holdings = s.holdings) :
    StepEffect s t.holdings :=
  .instr i (same ▸ exec_effect h)

/-- Taking up a notification is its `ENC_FRAME` (60_exceptions R232). -/
theorem takeUp_effect {n : Nat} {rest : List Nat} {s t : State} (h : takeUp n rest s = .next t) :
    ∃ k, Effect s.holdings t.holdings (.encFrame k) := by
  obtain ⟨u, hu, hlast⟩ := andThen_eq_next.1 h
  have effect := exec_effect hu
  cases hlast
  exact ⟨_, effect⟩

/-- A step of the producer by itself, for any inbox. -/
theorem producerWork_effect {s t : State} {q : List Event} (h : producerWork { s with inbox := q } = .next t) :
    StepEffect s t.holdings := by
  unfold producerWork at h
  split at h
  · obtain ⟨k, hk, hpair⟩ := encodeStep_writesPair h
    exact .encodes k hk hpair
  · split at h
    · exact .of_exec h rfl
    · split at h
      · obtain ⟨i, effect⟩ := finishTorn_effect h
        exact .instr i effect
      · unfold nextNote at h
        split at h
        · split at h
          · obtain ⟨k, effect⟩ := takeUp_effect h
            exact .instr _ effect
          · cases h
        · cases h

theorem producerMoves_effect {s t : State} (h : producerMoves s = .next t) : StepEffect s t.holdings := by
  unfold producerMoves at h
  split at h
  · exact .of_exec h rfl
  · exact producerWork_effect h

/-- No code that fails to decode has a next state (R96, R273). -/
theorem badCode_ne_next (e : DecodeError) (t : State) : badCode e ≠ .next t := by
  cases e <;> exact fun h => nomatch h

theorem runCode_effect {code : Code} {rest : List Event} {s t : State} (h : runCode code rest s = .next t) :
    StepEffect s t.holdings := by
  unfold runCode at h
  split at h
  · exact absurd h (badCode_ne_next _ _)
  · split at h
    · exact producerMoves_effect h
    · exact .of_exec h rfl

/-- An action of the producer that is no code: it is taken, or the producer moves. -/
theorem whenFree_effect {s t : State} {o : Out} (ho : o = .next t → StepEffect s t.holdings)
    (h : whenFree s o = .next t) : StepEffect s t.holdings := by
  unfold whenFree at h
  split at h
  · exact producerMoves_effect h
  · exact ho h

theorem runProducerStep_effect {rest : List Event} {s t : State} (h : runProducerStep rest s = .next t) :
    StepEffect s t.holdings := by
  unfold runProducerStep at h
  split at h
  · exact .of_exec h rfl
  · exact producerWork_effect h

/-- The step that runs the first event of the inbox. -/
theorem runEvent_effect {e : Event} {rest : List Event} {s t : State} (first : s.inbox = e :: rest)
    (h : runEvent e rest s = .next t) : StepEffect s t.holdings := by
  cases e with
  | word w => exact runCode_effect h
  | calls bs => exact runCode_effect h
  | producerStep =>
    simp only [runEvent] at h
    split at h
    · exact runProducerStep_effect h
    · cases h
  | readHalf op =>
    refine whenFree_effect (fun hbegin => ?_) h
    obtain ⟨-, -, rfl⟩ := beginTorn_eq_next.1 hbegin
    exact .of_eq rfl
  | attach =>
    refine whenFree_effect (fun hattach => ?_) h
    cases hattach
    exact .attaches rest first rfl
  | pixelWrite i p =>
    simp only [runEvent, collaboratorWrites] at h
    split at h
    · cases h; exact .of_eq rfl
    · cases h
  | handOver base bytes =>
    simp only [runEvent, collaboratorHandsOver] at h
    split at h
    · cases h; exact .of_eq rfl
    · cases h
  | notify offset k => cases h; exact .of_eq rfl
  | allocator draws => cases h; exact .of_eq rfl

/-- The step with an empty inbox. -/
theorem idleStep_effect {s t : State} (h : idleStep s = .next t) : StepEffect s t.holdings := by
  unfold idleStep at h
  split at h
  · exact .of_exec h rfl
  · split at h
    · exact producerWork_effect h
    · split at h
      · exact .of_exec h rfl
      · split at h
        · cases h
        · cases h; exact .of_eq rfl

/-- What every step can do to the holdings. -/
theorem step_effect {s t : State} (h : step s = .next t) : StepEffect s t.holdings := by
  cases hc : configProblem s.cfg with
  | some r => rw [step_refused hc] at h; cases h
  | none =>
    cases hi : s.inbox with
    | nil => exact idleStep_effect (step_idle hc hi ▸ h)
    | cons e rest => exact runEvent_effect hi (step_event hc hi ▸ h)

/-- Only the attachment attaches the handler (10_state R35). -/
theorem StepEffect.attach_first {s : State} {b : Holdings} (e : StepEffect s b) (was : s.irq.attached = false)
    (now : b.attached = true) : ∃ rest, s.inbox = .attach :: rest := by
  have changed : b.attached ≠ s.holdings.attached :=
    fun same => Bool.false_ne_true (was.symm.trans (same.symm.trans now))
  cases e with
  | attaches rest first => exact ⟨rest, first⟩
  | instr i h =>
    obtain ⟨-, detached⟩ := h.attached_writers changed
    exact absurd (detached.symm.trans now) Bool.false_ne_true
  | encodes k _ h => obtain ⟨x, y, m, -, -, -, rfl⟩ := h; exact absurd rfl changed

/-- Settles O29: the writers by the instruction's effect; the attachment is the event's, and no other step's. -/
theorem slotAndRegistrationWriters : Obligations.SlotAndRegistrationWriters := by
  refine ⟨fun s t i h => ?_, fun s rest hc hi hfree => ?_, fun s t h => (step_effect h).attach_first⟩
  · have effect := exec_effect h
    exact ⟨effect.armed_writers, effect.pendingNext_writers, effect.attached_writers⟩
  · exact (step_event hc hi).trans (whenFree_of hfree _)

/-! ### The armed buffer -/

/-- Buffer `b` of an allocated pool is armed, as buffer `k`, and shares no byte with another one. -/
structure ArmedBuffer (p : Pool) (k : Nat) (b : Buffer) : Prop where
  allocated : p.allocated = true
  armed : p.armed = some k
  found : p.bufs[k]? = some b
  apart : ∀ (j : Nat) (x : Buffer), j ≠ k → p.bufs[j]? = some x → buffersApart x b = true

/-- The armed buffer of a state of the invariant (43_pool_and_dma R180, R186). -/
theorem Inv.armedBuffer {s : State} {k : Nat} {b : Buffer} (inv : Inv s) (armed : s.pool.armed = some k)
    (found : s.pool.bufs[k]? = some b) : ArmedBuffer s.pool k b where
  allocated := by
    by_contra hfree
    obtain ⟨empty, -⟩ := inv.pool.none (by simpa using hfree)
    simp [empty] at found
  armed := armed
  found := found
  apart := fun j x hj hx => inv.pool.apart j k x b hj hx found

/-- Two buffers that lie apart have no byte in common. -/
theorem not_inBuffer_of_apart {x b : Buffer} {n : Nat} (h : buffersApart x b = true) (hn : inBuffer b n) :
    n < x.physBase ∨ x.physBase + frameBytes ≤ n := by
  simp only [buffersApart, Bool.and_eq_true, decide_eq_true_eq] at h
  obtain ⟨hlow, hhigh⟩ := hn
  omega

/-- Every byte of buffer `b`, and its record as buffer `k`, are in `c` as they were in `a`. -/
def BufferKept (k : Nat) (b : Buffer) (a c : Holdings) : Prop :=
  (∀ n, inBuffer b n → memRead c.txMem n = memRead a.txMem n) ∧ c.pool.bufs[k]? = some b

/-- A pair written inside another buffer leaves the armed one. -/
theorem WritesPair.bufferKept {l j k : Nat} {b : Buffer} {a c : Holdings} (h : WritesPair l j a c)
    (inside : j + 2 ≤ bufWords) (armed : ArmedBuffer a.pool k b) : BufferKept k b a c := by
  obtain ⟨x, y, m, hx, idle, outside, rfl⟩ := h
  have other : l ≠ k := fun hlk => idle (hlk ▸ armed.armed)
  refine ⟨fun n hn => outside n ?_, (List.getElem?_set_ne other).trans armed.found⟩
  have apart := not_inBuffer_of_apart (armed.apart l x other hx) hn
  have frame : frameBytes = 4 * bufWords := rfl
  omega

/-- An instruction after which the pipeline is `Armed` leaves the armed buffer: the pool is not allocated again, nor
released while a buffer is armed, and a `TEARDOWN` ends elsewhere. -/
theorem Effect.bufferKept {k : Nat} {b : Buffer} {a c : Holdings} {i : Instr} (e : Effect a c i)
    (armed : ArmedBuffer a.pool k b) (stays : c.bringup = .armed) : BufferKept k b a c := by
  cases e with
  | encodes l h => exact h.bufferKept (by decide) armed
  | allocates _ _ _ free => exact absurd (free.symm.trans armed.allocated) Bool.false_ne_true
  | frees idle => exact absurd (armed.armed.symm.trans idle) (Option.some_ne_none k)
  | ends bringup => exact absurd (stays.symm.trans bringup) (by decide)
  | keeps _ _ h | arms _ _ _ h | publishes _ h | swaps _ _ _ h | mismatches _ _ _ h =>
    subst h; exact ⟨fun _ _ => rfl, armed.found⟩

/-- Settles O48: by `step_effect` the only step that writes transfer space within `Armed` is one of an encode, whose
buffer is not the armed one and whose pair lies inside it, as the position is below `nPix` (`EncodeGood`). -/
theorem armedBufferIsNeverMutated : Obligations.ArmedBufferIsNeverMutated := by
  intro s t k b inv hstep harmed hb stays
  have armed := inv.armedBuffer harmed hb
  have kept : BufferKept k b s.holdings t.holdings := by
    cases step_effect hstep with
    | attaches rest first h => exact h ▸ ⟨fun _ _ => rfl, hb⟩
    | instr i effect => exact effect.bufferKept armed stays
    | encodes l now pair =>
      have position := inv.encode.position l now
      have words : bufWords = 2 + 2 * nPix := rfl
      exact pair.bufferKept (by omega) armed
  exact kept

end Sys2Proof.Machine
end

section
/-! SUPPORT for the statements of 20_memory. What the longer operations are when they go on, each said once, and what a
step is made of: an instruction, a step of the producer by itself, or an event from outside. -/

namespace Sys2Proof.Machine

/-! ### Operations that repeat a smaller one -/

/-- A property that every `PINDATA` write keeps, the writes of a pair keep. -/
theorem emitWords_keeps {P : State → Prop} (keeps : ∀ {w s t}, P s → pinWrite w s = .next t → P t) {lo hi : Word}
    {s t : State} (hs : P s) (h : emitWords lo hi s = .next t) : P t := by
  obtain ⟨-, -, u, hlo, hhi⟩ := emitWords_eq_next.1 h
  exact keeps (keeps hs hlo) hhi

/-- A property that every `PINDATA` write keeps, the emission of `PANEL_INIT` keeps (42_timing_and_bringup R155). -/
theorem emitItems_keeps {P : State → Prop} (keeps : ∀ {w s t}, P s → pinWrite w s = .next t → P t)
    {items : List PanelItem} {s t : State} (hs : P s) (h : emitItems items s = .next t) : P t := by
  induction items generalizing s with
  | nil => cases h; exact hs
  | cons it items ih =>
    obtain ⟨u, hu, hrest⟩ := andThen_eq_next.1 h
    exact ih (emitWords_keeps keeps hs hu) hrest

/-- A property that every stop keeps, the stops of a `TEARDOWN` keep (R158). -/
theorem stopAll_keeps {P : State → Prop} (keeps : ∀ {c s t}, P s → stop c s = .next t → P t) {c n : Nat} {s t : State}
    (hs : P s) (h : stopAll c n s = .next t) : P t := by
  induction n generalizing c s with
  | zero => cases h; exact hs
  | succ n ih =>
    obtain ⟨u, hu, hrest⟩ := andThen_eq_next.1 h
    exact ih (keeps hs hu) hrest

/-! ### Bring-up and the pool -/

/-- `TCON_CFG` records an error, or writes a well-formed record (R153, R154, R212). -/
theorem execTconCfg_next {o : TimingOperand} {s t : State} (h : execTconCfg o s = .next t) :
    s.bringup = .pinsConfigured ∧
      ((∃ e, t = { s with err := some e, ret := .error e }) ∨
        ((o.record s.cfg).activeOk = true ∧ 1 ≤ (o.record s.cfg).clkDiv ∧
          t = (((regWrites (timingWrites (o.record s.cfg)) s).setTimingValid true).setBringup
            .timingConfigured).setRet .void)) := by
  obtain ⟨-, hb, -, ho⟩ := bringupFrom_eq_next.1 h
  refine ⟨hb, ?_⟩
  split at ho
  · cases ho
  · split at ho
    · cases ho
      exact .inl ⟨_, rfl⟩
    · rename_i hactive
      split at ho
      · cases ho
      · rename_i hdiv
        cases ho
        exact .inr ⟨by simpa using hactive, Nat.one_le_iff_ne_zero.2 hdiv, rfl⟩

/-- `BRG_INIT` emits the items and advances (R155). -/
theorem execBrgInit_next {items : PanelOperand} {s t : State} (h : execBrgInit items s = .next t) :
    s.bringup = .timingConfigured ∧ s.tcon.valid = true ∧ ∃ u, emitItems (items.items s.cfg) s = .next u ∧
      t = (u.setBringup .streamingCommand).setRet .void := by
  obtain ⟨-, hb, -, ho⟩ := bringupFrom_eq_next.1 h
  split at ho
  · cases ho
  · rename_i hvalid
    obtain ⟨u, hu, hlast⟩ := andThen_eq_next.1 ho
    cases hlast
    exact ⟨hb, by simpa using hvalid, u, hu, rfl⟩

/-- `BRG_ARM` configures and starts its channel and arms the buffer, with the handler attached (R156). -/
theorem execBrgArm_next {c k : Nat} {s t : State} (h : execBrgArm c k s = .next t) :
    s.bringup = .streamingCommand ∧ s.irq.attached = true ∧
      ∃ u v, configure c k s = .next u ∧ start c u = .next v ∧
        t = (((v.setArmed (some k)).log [.armedSet (some k)]).setBringup .armed).setRet .void := by
  obtain ⟨-, hb, -, ho⟩ := bringupFrom_eq_next.1 h
  obtain ⟨-, -, b, -, ho⟩ := withBuf_eq_next.1 ho
  split at ho
  · cases ho
  · split at ho
    · cases ho
    · rename_i hattached
      obtain ⟨u, hconf, ho⟩ := andThen_eq_next.1 ho
      obtain ⟨v, hstart, hlast⟩ := andThen_eq_next.1 ho
      cases hlast
      exact ⟨hb, by simpa using hattached, u, v, hconf, hstart, rfl⟩

/-- `POOL_ALLOC` of a pool that is not allocated records an error, or has eight good regions (R51, R180, R181). -/
theorem execPoolAlloc_next {s t : State} (h : execPoolAlloc s = .next t) :
    s.pool.allocated = false ∧
      ((∃ e, t = { s with pool := { s.pool with bufs := [] }, txMem := [], err := some e, ret := .error e }) ∨
        ∃ bs, allocRegions s.allocDraws 0 nPool = .ok bs ∧ bs.all Buffer.aligned = true ∧ allApart bs = true ∧
          bs.all Buffer.inReach = true ∧
          t = { s with pool := { s.pool with allocated := true, bufs := bs }, txMem := [], ret := .void }) := by
  obtain ⟨-, ho⟩ := processOnly_eq_next.1 h
  split at ho
  · cases ho
  · rename_i hfree
    refine ⟨by simpa using hfree, ?_⟩
    split at ho
    · cases ho
      exact .inl ⟨_, rfl⟩
    · rename_i bs hbs
      split at ho
      · cases ho
      · rename_i haligned
        split at ho
        · cases ho
        · rename_i hapart
          split at ho
          · cases ho
          · rename_i hreach
            cases ho
            exact .inr ⟨bs, hbs, by simpa using haligned, by simpa using hapart, by simpa using hreach, rfl⟩

/-- `PUBLISH_NEXT k` puts an encoded buffer that is not armed into the slot (R197). -/
theorem execPublishNext_next {k : Nat} {s t : State} (h : execPublishNext k s = .next t) :
    t = ((s.setPending (some k)).log [.slotPut k]).setRet .void := by
  obtain ⟨-, ho⟩ := processOnly_eq_next.1 h
  obtain ⟨-, -, b, -, ho⟩ := withBuf_eq_next.1 ho
  split at ho
  · cases ho
  · split at ho
    · cases ho
    · cases ho
      rfl

/-- A `TEARDOWN` after its stops: the handler is detached and both slots are empty (42_timing_and_bringup R158). -/
def slotsCleared (s : State) : State :=
  (((s.setAttached false).setArmed none).setPending none).log [.armedSet none, .slotTake s.pool.pendingNext]

/-- The end of a `TEARDOWN`: the timing and the pipeline are forgotten (R158, R250). -/
def pipelineEnded (s : State) : State := (forgetPipeline ((s.forgetTiming).setBringup .unconfigured)).setRet .void

/-- What is left of a `TEARDOWN` after its stops: the slots, the release of the pool, the clocks, the end (R158). -/
theorem teardownRest_eq_next {s t : State} :
    teardownRest s = .next t ↔
      ∃ v, freePool (slotsCleared s) = .next v ∧ t = pipelineEnded (regWrites [(.clkDma, 0), (.clkTcon, 0)] v) := by
  refine andThen_eq_next.trans (exists_congr fun v => and_congr_right fun _ => ?_)
  simp [pipelineEnded, eq_comm]

/-! ### The encode -/

/-- The state after a pair of words of buffer `k` is written, with the buffer's mark and the producer changed
(41_frame_ops R130, R135). -/
def pairWritten (k j : Nat) (b : Buffer) (encoded : Bool) (pair : Word × Word) (f : Producer → Producer) (s : State) :
    State :=
  writeTxPair b j pair ((s.setBuf k { b with encoded := encoded }).modProducer f)

/-- `ENC_FRAME k` records an error, or starts the encode with the command pair (41_frame_ops R130, R134, R135). -/
theorem execEncFrame_next {k : Nat} {s t : State} (h : execEncFrame k s = .next t) :
    (∃ e, t = { s with err := some e, ret := .error e }) ∨
      ∃ b, s.pool.bufs[k]? = some b ∧ bufferInUse s k b = false ∧
        t = (pairWritten k 0 b false (encWord s.cfg false (cmdValue s.cfg.cmdWritePixels))
          (fun p => { p with encoding := some k, encIdx := 0 }) s).setRet .void := by
  obtain ⟨-, ho⟩ := processOnly_eq_next.1 h
  obtain ⟨-, ho⟩ := ifIndexed_eq_next.1 ho
  split at ho
  · cases ho
  · split at ho
    · cases ho
      exact .inl ⟨_, rfl⟩
    · obtain ⟨-, -, b, hb, ho⟩ := withBuf_eq_next.1 ho
      split at ho
      · cases ho
        exact .inl ⟨_, rfl⟩
      · split at ho
        · cases ho
        · rename_i huse
          cases ho
          exact .inr ⟨b, hb, by simpa using huse, rfl⟩

/-- A further step of an encode writes the pair of its pixel and marks the buffer encoded at the last one (R135). -/
theorem encodeStep_next {s t : State} (h : encodeStep s = .next t) :
    ∃ k b p, s.producer.encoding = some k ∧ s.pool.bufs[k]? = some b ∧ bufferInUse s k b = false ∧
      t = pairWritten k (2 + 2 * s.producer.encIdx) b (decide (s.producer.encIdx + 1 = nPix)) (encWord s.cfg true p)
        (producerAfter k s.producer.encIdx) s := by
  unfold encodeStep at h
  split at h
  · cases h
  · rename_i k hk
    obtain ⟨-, -, b, hb, ho⟩ := withBuf_eq_next.1 h
    split at ho
    · cases ho
    · rename_i huse
      split at ho
      · cases ho
      · rename_i p hp
        cases ho
        exact ⟨k, b, p, hk, hb, by simpa using huse, rfl⟩

/-! ### The engine and the handler -/

/-- `DMA_XFER c` writes one word of an enabled channel to `PINDATA` in `Data` mode and moves the channel on (R192). -/
theorem execDmaXfer_next {c : Nat} {s t : State} (h : execDmaXfer c s = .next t) :
    ∃ ch w u, s.chans[c]? = some ch ∧ ch.enable = true ∧ ch.dmaPos < ch.words ∧ s.gpio.pinMode = .data ∧
      pinWrite w s = .next u ∧ t = u.setChan c (channelAfterWord ch) := by
  obtain ⟨ch, hc, ho⟩ := withChan_eq_next.1 h
  split at ho
  · rename_i hready
    obtain ⟨henable, hpos⟩ : ch.enable = true ∧ ch.dmaPos < ch.words := by simpa using hready
    split at ho
    · cases ho
    · rename_i hmode
      split at ho
      · cases ho
      · split at ho
        · cases ho
        · rename_i w hw
          obtain ⟨u, hu, hlast⟩ := andThen_eq_next.1 ho
          cases hlast
          exact ⟨ch, w, u, hc, henable, hpos, by simpa using hmode, hu, rfl⟩
  · cases ho

/-- A channel armed with buffer `b`: configured, and running from word 0 (R187, R188). -/
def armedChannel (cfg : Config) (b : Buffer) (ch : Channel) : Channel :=
  { configuredChannel cfg b ch with enable := true, dmaPos := 0 }

/-- A configuration and the start after it arm the channel with an encoded buffer, on a valid path (R187, R188, R270). -/
theorem configure_start_next {c k : Nat} {s u t : State} (hconf : configure c k s = .next u)
    (hstart : start c u = .next t) :
    ∃ ch b as, s.chans[c]? = some ch ∧ s.pool.bufs[k]? = some b ∧ b.encoded = true ∧ s.producer.encoding ≠ some k ∧
      pathValid s = true ∧ (ch.irqPending = true → s.irq.ctx = .interrupt) ∧
      t = ((s.setMasked (maskAfter s)).setChan c (armedChannel s.cfg b ch)).log as := by
  obtain ⟨ch, b, hc, -, -, hb, hstopped, hidle, henc, rfl⟩ := configure_eq_next.1 hconf
  obtain ⟨as, hconfigured, -⟩ := configuredState_eq hc b
  rw [hconfigured] at hstart
  obtain ⟨hlt, -⟩ := List.getElem?_eq_some_iff.1 hc
  have hc' : (((s.setMasked (maskAfter s)).setChan c (configuredChannel s.cfg b ch)).log as).chans[c]? =
      some (configuredChannel s.cfg b ch) := List.getElem?_set_self hlt
  obtain ⟨ch', hch', hcase⟩ := start_eq_next.1 hstart
  obtain rfl : configuredChannel s.cfg b ch = ch' := Option.some.inj (hc'.symm.trans hch')
  obtain ⟨hrunning, -⟩ | ⟨-, hpath, -, hpending, rfl⟩ := hcase
  · exact absurd (hrunning.symm.trans hstopped) (by decide)
  · obtain ⟨bs, hstarted, -⟩ := startedState_eq hc'
    refine ⟨ch, b, as ++ bs, hc, hb, henc, hidle, hpath, hpending, ?_⟩
    rw [hstarted]
    simp [State.log, State.setChan, armedChannel]

/-- In interrupt context a configuration leaves the mask (60_exceptions R219). -/
theorem setMasked_maskAfter_of_interrupt {s : State} (h : s.irq.ctx = .interrupt) : s.setMasked (maskAfter s) = s := by
  have unmasked : maskNeeded s = false := by simp [maskNeeded, h]
  simp [maskAfter, unmasked, State.setMasked]

/-- A channel whose completion is cleared (R190). -/
def Channel.acknowledged (ch : Channel) : Channel := { ch with irqPending := false }

theorem Channel.acknowledged_acknowledged (ch : Channel) : ch.acknowledged.acknowledged = ch.acknowledged := rfl

/-- An acknowledged channel is found with its completion cleared (R190). -/
theorem acknowledge_next {c : Nat} {s t : State} (h : acknowledge c s = .next t) :
    ∃ ch as, s.chans[c]? = some ch ∧ t.chans[c]? = some ch.acknowledged ∧
      t = (s.setChan c ch.acknowledged).log as := by
  obtain ⟨ch, hc, rfl⟩ := acknowledge_eq_next.1 h
  obtain ⟨hlt, -⟩ := List.getElem?_eq_some_iff.1 hc
  exact ⟨ch, _, hc, List.getElem?_set_self hlt, rfl⟩

/-- A re-arm in the handler acknowledges its channel and arms it with an encoded buffer (R191). -/
theorem rearm_next {c k : Nat} {s t : State} (hx : s.irq.ctx = .interrupt) (h : rearm c k s = .next t) :
    ∃ ch b as, s.chans[c]? = some ch ∧ s.pool.bufs[k]? = some b ∧ b.encoded = true ∧ s.producer.encoding ≠ some k ∧
      pathValid s = true ∧ t = (s.setChan c (armedChannel s.cfg b ch.acknowledged)).log as := by
  obtain ⟨u, v, hack, hconf, hstart⟩ := rearm_eq_next.1 h
  obtain ⟨ch, as, hc, hc', rfl⟩ := acknowledge_next hack
  obtain ⟨ch', b, bs, hc'', hb, henc, hidle, hpath, -, rfl⟩ := configure_start_next hconf hstart
  obtain rfl := Option.some.inj (hc'.symm.trans hc'')
  refine ⟨ch, b, as ++ bs, hc, hb, henc, hidle, hpath, ?_⟩
  rw [setMasked_maskAfter_of_interrupt (s := (s.setChan c ch.acknowledged).log as) hx]
  simp [State.log, State.setChan]

/-- A handler run (60_exceptions R222): the published buffer, or the same one again, is armed, the slot emptied, and the
channel acknowledged and running. -/
theorem execIrqFrame_next {c : Nat} {s t : State} (h : execIrqFrame c s = .next t) :
    ∃ same ch b tr, s.pool.armed = some same ∧ s.chans[c]? = some ch ∧ s.pool.bufs[nextArmed s same]? = some b ∧
      b.encoded = true ∧ s.producer.encoding ≠ some (nextArmed s same) ∧ pathValid s = true ∧
      t = leaveHandler { s with
        pool := { s.pool with armed := some (nextArmed s same), pendingNext := none }
        chans := s.chans.set c (armedChannel s.cfg b ch.acknowledged)
        trace := tr } := by
  obtain ⟨same, u, harmed, hbody, rfl⟩ := irqFrame_inv h
  obtain ⟨v, hack, hrearm⟩ := andThen_eq_next.1 hbody
  obtain ⟨ch, as, hc, hc', rfl⟩ := acknowledge_next hack
  simp only [nextArmed, markArmed, takePending, enterHandler, State.log, State.setChan, State.setCtx, State.setArmed,
    State.setPending] at hc hc' hrearm
  obtain ⟨ch', b, bs, hc'', hb, henc, hidle, hpath, rfl⟩ := rearm_next rfl hrearm
  obtain rfl := Option.some.inj (hc'.symm.trans hc'')
  refine ⟨same, ch, b, s.trace ++ as ++ [.slotTake s.pool.pendingNext] ++ [.armedSet (some (nextArmed s same))] ++ bs,
    harmed, hc, hb, henc, hidle, hpath, ?_⟩
  simp only [leaveHandler, State.log, State.setChan, State.setCtx, Channel.acknowledged_acknowledged, List.set_set,
    nextArmed]

/-! ### The step -/

/-- What a step is: an instruction of an agent that may issue it, a step of the producer by itself, the beginning of an
operation by its read half, an event from outside, or no move at all. `q` is what stays in the inbox. -/
inductive Move (s t : State) : Prop
  | runs (i : Instr) (q : List Event) (free : isProducers i = true → producerBusy s = false)
    (h : exec i { s with inbox := q } = .next t)
  | works (q : List Event) (h : producerWork { s with inbox := q } = .next t)
  | begins (op : TornOp) (q : List Event) (free : producerBusy s = false)
    (h : beginTorn op { s with inbox := q } = .next t)
  | attaches (q : List Event) (h : attachHandler { s with inbox := q } = .next t)
  | writesPixel (i : Nat) (p : Pixel) (q : List Event) (h : collaboratorWrites i p { s with inbox := q } = .next t)
  | handsOver (base bytes : Nat) (q : List Event)
    (h : collaboratorHandsOver base bytes { s with inbox := q } = .next t)
  | notifies (offset k : Nat) (q : List Event) (h : collaboratorNotifies offset k { s with inbox := q } = .next t)
  | answers (draws : List AllocDraw) (q : List Event) (h : allocatorAnswers draws { s with inbox := q } = .next t)
  | rests (h : t = s)

theorem producerMoves_move {s t : State} (h : producerMoves s = .next t) : Move s t := by
  unfold producerMoves at h
  split at h
  · exact .runs (.irqFrame _) s.inbox nofun h
  · exact .works s.inbox h

theorem runCode_move {code : Code} {rest : List Event} {s t : State} (h : runCode code rest s = .next t) :
    Move s t := by
  unfold runCode at h
  split at h
  · exact absurd h (badCode_ne_next _ _)
  · split at h
    · exact producerMoves_move h
    · rename_i hfree
      exact .runs _ _ (fun hi => by simpa [hi] using hfree) h

/-- An action of the producer that is no code: it is taken by a free producer, or the producer moves. -/
theorem whenFree_move {s t : State} {o : Out} (ho : producerBusy s = false → o = .next t → Move s t)
    (h : whenFree s o = .next t) : Move s t := by
  unfold whenFree at h
  split at h
  · exact producerMoves_move h
  · rename_i hfree
    exact ho (by simpa using hfree) h

theorem runProducerStep_move {rest : List Event} {s t : State} (h : runProducerStep rest s = .next t) : Move s t := by
  unfold runProducerStep at h
  split at h
  · exact .runs (.irqFrame _) s.inbox nofun h
  · exact .works rest h

theorem runEvent_move {e : Event} {rest : List Event} {s t : State} (h : runEvent e rest s = .next t) : Move s t := by
  cases e with
  | word w => exact runCode_move h
  | calls bs => exact runCode_move h
  | producerStep =>
    simp only [runEvent] at h
    split at h
    · exact runProducerStep_move h
    · cases h
  | readHalf op => exact whenFree_move (fun free ho => .begins op rest free ho) h
  | attach => exact whenFree_move (fun _ ho => .attaches rest ho) h
  | pixelWrite i p => exact .writesPixel i p rest h
  | handOver base bytes => exact .handsOver base bytes rest h
  | notify offset k => exact .notifies offset k rest h
  | allocator draws => exact .answers draws rest h

theorem idleStep_move {s t : State} (h : idleStep s = .next t) : Move s t := by
  unfold idleStep at h
  split at h
  · exact .runs (.irqFrame _) s.inbox nofun h
  · split at h
    · exact .works s.inbox h
    · split at h
      · exact .runs (.dmaXfer _) s.inbox nofun h
      · split at h
        · cases h
        · cases h; exact .rests rfl

/-- Every step is a move, under a configuration the model admits. -/
theorem step_move {s t : State} (h : step s = .next t) : configProblem s.cfg = none ∧ Move s t := by
  cases hc : configProblem s.cfg with
  | some r => rw [step_refused hc] at h; cases h
  | none =>
    cases hi : s.inbox with
    | nil => exact ⟨rfl, idleStep_move (step_idle hc hi ▸ h)⟩
    | cons e rest => exact ⟨rfl, runEvent_move (step_event hc hi ▸ h)⟩

end Sys2Proof.Machine
end

section
/-! PROOF of the statement of 20_memory about the invariant: each kind of update keeps it, hence every instruction, hence
every step. -/

namespace Sys2Proof.Machine

/-! ### Updates that the invariant does not see, and those of the agents outside -/

/-- What the invariant says nothing of may change: the pins but for their mode, what the panel latched, the notifications
that wait, the error record, and the model's own fields. -/
theorem Inv.quiet {s : State} (inv : Inv s) {w : Word} {pins : List Pin} {known : TimingMarks} {seen : Bool}
    {latched : List Latch} {notes : List Nat} {e : Option PipeError} {r : Ret} {tr : List Access}
    {d : List AllocDraw} {q : List Event} :
    Inv { s with
      gpio := { s.gpio with pinData := w, pins := pins }
      tcon := { s.tcon with known := known }
      panel := { s.panel with strobeSeen := seen, latched := latched }
      producer := { s.producer with notes := notes }
      err := e, ret := r, trace := tr, allocDraws := d, inbox := q } :=
  { inv with
    pool := { inv.pool with }
    encode := { inv.encode with }
    channel := fun ch hch => { inv.channel ch hch with }
    armed := { inv.armed with }
    bringup := { inv.bringup with } }

/-- The PixelBuffer may be written and handed over, at an even base (10_state R25, 20_memory R51). -/
theorem Inv.withPix {s : State} (inv : Inv s) {pix : PixelBuffer} (canonical : Memory.wf pix.mem = true)
    (aligned : pix.base % 2 = 0) : Inv { s with pix := pix } :=
  { inv with
    pixCanonical := canonical
    pixAligned := aligned
    pool := { inv.pool with }
    encode := { inv.encode with }
    channel := fun ch hch => { inv.channel ch hch with }
    armed := { inv.armed with }
    bringup := { inv.bringup with } }

/-- The handler may be attached at any time (10_state R35). -/
theorem Inv.attach {s : State} (inv : Inv s) : Inv (s.setAttached true) :=
  { inv with
    pool := { inv.pool with }
    encode := { inv.encode with }
    channel := fun ch hch => { inv.channel ch hch with }
    armed := { inv.armed with attached := fun _ => rfl }
    bringup := { inv.bringup with } }

/-! ### The producer -/

/-- A free producer encodes nothing and owes no publish. -/
theorem EncodeGood.of_free {s : State} (free : producerBusy s = false) : EncodeGood s := by
  obtain ⟨henc, hpub, -⟩ := (producerBusy_eq_false_iff s).1 free
  exact
    { position := by simp [henc]
      buffer := by simp [henc]
      idle := by simp [henc]
      publish := by simp [hpub] }

/-- The producer's fields may change to what `EncodeGood` and the rule about half an operation allow. -/
theorem Inv.withProducer {s : State} (inv : Inv s) {p : Producer} (encode : EncodeGood { s with producer := p })
    (half : p.halfWrite.isSome = true → p.encoding = none ∧ p.thenPublish = none) : Inv { s with producer := p } :=
  { inv with
    encode := encode
    half := half
    pool := { inv.pool with }
    channel := fun ch hch => { inv.channel ch hch with }
    armed := { inv.armed with }
    bringup := { inv.bringup with } }

/-- An operation begun by its read half is the producer's only work (20_memory R53 (d)). -/
theorem Inv.withHalf {s : State} (inv : Inv s) (henc : s.producer.encoding = none)
    (hpub : s.producer.thenPublish = none) (h : Option HalfWrite) :
    Inv (s.modProducer fun p => { p with halfWrite := h }) :=
  inv.withProducer { inv.encode with } fun _ => ⟨henc, hpub⟩

/-- A publish that is owed no more. -/
theorem Inv.forgetPublish {s : State} (inv : Inv s) : Inv (s.modProducer fun p => { p with thenPublish := none }) :=
  inv.withProducer { inv.encode with publish := nofun } fun h => ⟨(inv.half h).1, rfl⟩

/-- The publish that follows the encode just taken up (60_exceptions R232). -/
theorem Inv.owePublish {s : State} (inv : Inv s) :
    Inv (s.modProducer fun p => { p with thenPublish := p.encoding }) :=
  inv.withProducer { inv.encode with publish := fun _ h => .inl h } fun h => ⟨(inv.half h).1, (inv.half h).1⟩

/-- A free producer may publish (43_pool_and_dma R197): the slot is bound by its encode alone. -/
theorem Inv.publish {s : State} (inv : Inv s) (free : producerBusy s = false) (k : Nat) :
    Inv (s.setPending (some k)) :=
  { inv with
    encode := .of_free free
    pool := { inv.pool with }
    channel := fun ch hch => { inv.channel ch hch with }
    armed := { inv.armed with }
    bringup := { inv.bringup with } }

/-! ### The channels -/

/-- A good channel stays good when the path stays valid and the strobe level known. -/
theorem ChannelGood.mono {s t : State} {ch : Channel} (good : ChannelGood s ch) (hcfg : t.cfg = s.cfg)
    (hpath : pathValid s = true → pathValid t = true)
    (hstrobe : s.panel.strobeKnown = true → t.panel.strobeKnown = true) : ChannelGood t ch where
  fixed := hcfg ▸ good.fixed
  position := good.position
  running henable := by
    obtain ⟨hconf, hpos, hp⟩ := good.running henable
    exact ⟨hconf, hpos, hpath hp⟩
  strobe henable := (good.strobe henable).imp_right hstrobe
  acknowledged := good.acknowledged
  kept := good.kept

theorem bufWords_pos : 0 < bufWords := by decide

/-- A stopped channel (R189). -/
theorem ChannelGood.stopped {s : State} {ch : Channel} (good : ChannelGood s ch) :
    ChannelGood s { ch with enable := false } :=
  { good with
    running := nofun
    strobe := nofun
    acknowledged := nofun }

/-- An acknowledged channel (R190). -/
theorem ChannelGood.acknowledge {s : State} {ch : Channel} (good : ChannelGood s ch) :
    ChannelGood s ch.acknowledged :=
  { good with acknowledged := fun _ => rfl }

/-- A channel that is started, configured, on a valid path, with nothing pending (R188). -/
theorem ChannelGood.started {s : State} {ch : Channel} (good : ChannelGood s ch) (hconf : ch.configured = true)
    (hpath : pathValid s = true) (hpending : ch.irqPending = false) :
    ChannelGood s { ch with enable := true, dmaPos := 0 } :=
  { good with
    position := Nat.zero_le _
    running := fun _ => ⟨hconf, bufWords_pos, hpath⟩
    strobe := fun _ => .inl rfl
    acknowledged := fun _ => hpending }

/-- A configured channel has the fixed destination, length and control word (R187, R196). -/
theorem ChannelGood.armed {s : State} {ch : Channel} (good : ChannelGood s ch) (b : Buffer)
    (hpath : pathValid s = true) (hpending : ch.irqPending = false) : ChannelGood s (armedChannel s.cfg b ch) where
  fixed _ := ⟨rfl, rfl, rfl⟩
  position := Nat.zero_le _
  running _ := ⟨rfl, bufWords_pos, hpath⟩
  strobe _ := .inl rfl
  acknowledged _ := hpending
  kept := good.kept

/-- A configured channel moves the words of one frame (R192). -/
theorem ChannelGood.words_eq {s : State} {ch : Channel} (good : ChannelGood s ch) (hconf : ch.configured = true) :
    ch.words = bufWords := by
  obtain ⟨-, -, hlen⟩ := good.fixed hconf
  rw [Channel.words, hlen]
  decide

/-- A running channel after one more word, once the strobe level is known: it runs on, or is complete, and as nothing
was pending the completion is signalled (R192, R193). -/
theorem ChannelGood.afterWord {s t : State} {ch : Channel} (good : ChannelGood s ch) (henable : ch.enable = true)
    (hcfg : t.cfg = s.cfg) (hpath : pathValid s = true → pathValid t = true) (hstrobe : t.panel.strobeKnown = true) :
    ChannelGood t (channelAfterWord ch) := by
  obtain ⟨hconf, hpos, hp⟩ := good.running henable
  have hwords := good.words_eq hconf
  have hpending := good.acknowledged henable
  unfold channelAfterWord
  split
  · exact
      { fixed := hcfg ▸ good.fixed
        position := hpos
        running := nofun
        strobe := nofun
        acknowledged := nofun
        kept := by simp [complete, good.kept, hpending] }
  · rename_i hmore
    exact
      { fixed := hcfg ▸ good.fixed
        position := hpos
        running := fun _ => ⟨hconf, Nat.lt_of_le_of_ne hpos (hwords ▸ hmore), hpath hp⟩
        strobe := fun _ => .inr hstrobe
        acknowledged := fun _ => hpending
        kept := good.kept }

/-- The channels may change to good ones that are configured, and with the same source, as before. -/
theorem Inv.withChans {s : State} (inv : Inv s) {cs : List Channel} (length : cs.length = s.chans.length)
    (good : ∀ x ∈ cs, ChannelGood s x)
    (same : ∀ x ∈ cs, ∃ ch ∈ s.chans, x.configured = ch.configured ∧ x.src = ch.src) :
    Inv { s with chans := cs } :=
  { inv with
    channels := length.trans inv.channels
    channel := fun x hx => { good x hx with }
    armed :=
      { inv.armed with
        source := fun k hk => by
          obtain ⟨b, hb, henc, hsource⟩ := inv.armed.source k hk
          refine ⟨b, hb, henc, fun x hx => ?_⟩
          obtain ⟨ch, hch, hconf, hsrc⟩ := same x hx
          rw [hconf, hsrc]
          exact hsource ch hch }
    pool := { inv.pool with }
    encode := { inv.encode with }
    bringup := { inv.bringup with } }

/-- One channel may change so. -/
theorem Inv.setChan {s : State} (inv : Inv s) {c : Nat} {ch x : Channel} (hc : s.chans[c]? = some ch)
    (good : ChannelGood s x) (hconf : x.configured = ch.configured) (hsrc : x.src = ch.src) : Inv (s.setChan c x) := by
  refine inv.withChans List.length_set (fun y hy => ?_) (fun y hy => ?_)
  · obtain hold | rfl := List.mem_or_eq_of_mem_set hy
    · exact inv.channel y hold
    · exact good
  · obtain hold | rfl := List.mem_or_eq_of_mem_set hy
    · exact ⟨y, hold, rfl, rfl⟩
    · exact ⟨ch, List.mem_of_getElem? hc, hconf, hsrc⟩

/-- A channel that is changed so, if there is one. -/
theorem Inv.modChan {s : State} (inv : Inv s) {c : Nat} {f : Channel → Channel}
    (good : ∀ ch ∈ s.chans, ChannelGood s (f ch)) (hconf : ∀ ch, (f ch).configured = ch.configured)
    (hsrc : ∀ ch, (f ch).src = ch.src) : Inv (s.modChan c f) := by
  cases hc : s.chans[c]? with
  | none =>
    have same : s.modChan c f = s := by
      rw [State.modChan, List.modify_eq_self (List.getElem?_eq_none_iff.1 hc)]
    rw [same]
    exact inv
  | some ch =>
    rw [modChan_of hc]
    exact inv.setChan hc (good ch (List.mem_of_getElem? hc)) (hconf ch) (hsrc ch)

theorem Inv.stop {s t : State} {c : Nat} (inv : Inv s) (h : stop c s = .next t) : Inv t := by
  obtain ⟨ch, hc, rfl⟩ := stop_eq_next.1 h
  exact (inv.setChan hc (inv.channel ch (List.mem_of_getElem? hc)).stopped rfl rfl).quiet

theorem Inv.acknowledge {s t : State} {c : Nat} (inv : Inv s) (h : acknowledge c s = .next t) : Inv t := by
  obtain ⟨ch, hc, rfl⟩ := acknowledge_eq_next.1 h
  exact (inv.setChan hc (inv.channel ch (List.mem_of_getElem? hc)).acknowledge rfl rfl).quiet

/-- In process context a channel starts only with nothing pending (R270). -/
theorem Inv.start {s t : State} {c : Nat} (inv : Inv s) (h : start c s = .next t) : Inv t := by
  obtain ⟨ch, hc, ⟨-, rfl⟩ | ⟨-, hpath, hconf, hpending, rfl⟩⟩ := start_eq_next.1 h
  · exact inv
  · obtain ⟨as, heq, -⟩ := startedState_eq hc
    have quietly : ch.irqPending = false := by
      by_contra hset
      have interrupt := hpending (by simpa using hset)
      exact absurd (inv.context.symm.trans interrupt) (by decide)
    rw [heq]
    exact (inv.setChan hc ((inv.channel ch (List.mem_of_getElem? hc)).started hconf hpath quietly) rfl rfl).quiet

/-- The write-back of half an operation: an enable bit or a completion status is cleared (20_memory R53 (d)). -/
theorem Inv.writeHalf {s : State} {w : HalfWrite} (inv : Inv s) (hw : s.producer.halfWrite = some w) :
    Inv (writeHalf w s) := by
  obtain ⟨henc, hpub⟩ := inv.half (by rw [hw]; rfl)
  have cleared : Inv (setField w.op.field 0 s) := by
    cases w.op with
    | dmaStop c => exact inv.modChan (fun ch hch => (inv.channel ch hch).stopped) (fun _ => rfl) fun _ => rfl
    | dmaAck c => exact inv.modChan (fun ch hch => (inv.channel ch hch).acknowledge) (fun _ => rfl) fun _ => rfl
    | teardown => exact inv.modChan (fun ch hch => (inv.channel ch hch).stopped) (fun _ => rfl) fun _ => rfl
  exact (cleared.withHalf (by simpa using henc) (by simpa using hpub) none).quiet

/-! ### The pins -/

theorem strobeKnown_pinWritten (w : Word) {s : State} (h : s.panel.strobeKnown = true) :
    (pinWritten w s).panel.strobeKnown = true := by
  cases hmode : s.gpio.pinMode <;> simp [pinWritten, hmode, h, panelSees]

/-- In `Data` mode the panel sees the strobe level (40_word_ops R118). -/
theorem strobeKnown_pinWritten_data (w : Word) {s : State} (h : s.gpio.pinMode = .data) :
    (pinWritten w s).panel.strobeKnown = true := by
  simp [pinWritten, h, panelSees]

theorem Inv.pinWrite {w : Word} {s t : State} (inv : Inv s) (h : pinWrite w s = .next t) : Inv t := by
  obtain ⟨-, -, rfl⟩ := pinWrite_eq_next.1 h
  exact
    { inv with
      channel := fun ch hch => (inv.channel ch hch).mono rfl id (strobeKnown_pinWritten w)
      pool := { inv.pool with }
      encode := { inv.encode with }
      armed := { inv.armed with }
      bringup := { inv.bringup with } }

/-- One word of the engine (R192, R193). -/
theorem Inv.dmaXfer {c : Nat} {s t : State} (inv : Inv s) (h : execDmaXfer c s = .next t) : Inv t := by
  obtain ⟨ch, w, u, hc, henable, -, hmode, hu, rfl⟩ := execDmaXfer_next h
  have invU := inv.pinWrite hu
  obtain ⟨-, -, rfl⟩ := pinWrite_eq_next.1 hu
  have good := (inv.channel ch (List.mem_of_getElem? hc)).afterWord (t := pinWritten w s) henable rfl id
    (strobeKnown_pinWritten_data w hmode)
  have fixed : (channelAfterWord ch).configured = ch.configured ∧ (channelAfterWord ch).src = ch.src := by
    unfold channelAfterWord
    split <;> exact ⟨rfl, rfl⟩
  exact invU.setChan hc good fixed.1 fixed.2

/-! ### Arming -/

/-- The one channel of an admitted configuration (92_eei_decisions D12). -/
theorem Inv.chans_eq {s : State} {c : Nat} {ch : Channel} (inv : Inv s) (single : s.cfg.nch = 1)
    (hc : s.chans[c]? = some ch) : c = 0 ∧ s.chans = [ch] := by
  obtain ⟨x, hx⟩ := List.length_eq_one_iff.1 (inv.channels.trans single)
  obtain ⟨hlt, hget⟩ := List.getElem?_eq_some_iff.1 hc
  simp only [hx, List.length_singleton, Nat.lt_one_iff] at hlt
  subst hlt
  simp_all

/-- Arming (42_timing_and_bringup R156, 60_exceptions R222): a buffer that is fully encoded, on the only channel, which
then runs from word 0 with nothing pending. -/
theorem Inv.arm {s : State} {c k : Nat} {old ch : Channel} {b : Buffer} {p : Option Nat} {y : Bringup} (inv : Inv s)
    (single : s.cfg.nch = 1) (hc : s.chans[c]? = some old) (good : ChannelGood s ch)
    (hb : s.pool.bufs[k]? = some b) (henc : b.encoded = true) (hpath : pathValid s = true)
    (hpending : ch.irqPending = false) (hattached : s.irq.attached = true)
    (hrank : 3 ≤ s.bringup.rank) (hy : y = .armed)
    (encode : EncodeGood { s with pool := { s.pool with armed := some k, pendingNext := p } }) :
    Inv { s with
      pool := { s.pool with armed := some k, pendingNext := p }
      chans := s.chans.set c (armedChannel s.cfg b ch)
      bringup := y } := by
  obtain ⟨rfl, hchans⟩ := inv.chans_eq single hc
  obtain ⟨-, -, hreach⟩ := inv.pool.shape b (List.mem_of_getElem? hb)
  have only : ∀ x ∈ s.chans.set 0 (armedChannel s.cfg b ch), x = armedChannel s.cfg b ch := by simp [hchans]
  exact
    { inv with
      channels := List.length_set.trans inv.channels
      channel := fun x hx => by
        obtain rfl := only x hx
        exact { good.armed b hpath hpending with }
      armed :=
        { index := by simp [hy]
          source := fun j hj => by
            obtain rfl : k = j := Option.some.inj hj
            refine ⟨b, hb, henc, fun x hx => ?_⟩
            obtain rfl := only x hx
            exact ⟨rfl, toNat_physBase hreach⟩
          attached := fun _ => hattached }
      bringup :=
        { inv.bringup with
          clocks := fun _ => inv.bringup.clocks (by omega)
          pins := fun _ => inv.bringup.pins (by omega)
          timing := fun _ => inv.bringup.timing hrank }
      pool := { inv.pool with }
      encode := { encode with } }

/-- A configuration out of the handler's context ends with the line unmasked, as it was (60_exceptions R219). -/
theorem Inv.setMasked_maskAfter {s : State} (inv : Inv s) : s.setMasked (maskAfter s) = s := by
  have unmasked : maskAfter s = s.irq.masked := by
    unfold maskAfter
    split
    · exact inv.unmasked.symm
    · rfl
  rw [unmasked]
  rfl

/-- The return from the handler is to process context, where the invariant holds. -/
theorem Inv.leaveHandler {s : State} (inv : Inv s) : Inv (leaveHandler s) := by
  have same : Machine.leaveHandler s = s := by rw [Machine.leaveHandler, State.setCtx, ← inv.context]
  rw [same]
  exact inv

/-- The buffer a handler run arms is neither the one that is encoded nor one a publish is owed of (R222, R136). -/
theorem Inv.encode_swapped {s : State} {same : Nat} (inv : Inv s) (harmed : s.pool.armed = some same)
    (hidle : s.producer.encoding ≠ some (nextArmed s same)) :
    EncodeGood { s with pool := { s.pool with armed := some (nextArmed s same), pendingNext := none } } := by
  have next : some (nextArmed s same) = s.pool.pendingNext ∨ some (nextArmed s same) = s.pool.armed := by
    unfold nextArmed
    cases s.pool.pendingNext with
    | none => exact .inr harmed.symm
    | some k => exact .inl rfl
  exact
    { inv.encode with
      idle := fun k hk => ⟨fun hnext => hidle (hk.trans hnext.symm), nofun⟩
      publish := fun k hk => by
        obtain hcurrent | ⟨hnone, harm, hpend, hbuf⟩ := inv.encode.publish k hk
        · exact .inl hcurrent
        · refine .inr ⟨hnone, fun hnext => ?_, nofun, hbuf⟩
          obtain h | h := next
          · exact hpend (h.symm.trans hnext)
          · exact harm (h.symm.trans hnext) }

/-- A handler run keeps the invariant (60_exceptions R222). -/
theorem Inv.irqFrame {c : Nat} {s t : State} (inv : Inv s) (single : s.cfg.nch = 1)
    (h : execIrqFrame c s = .next t) : Inv t := by
  obtain ⟨same, ch, b, tr, harmed, hc, hb, henc, hidle, hpath, rfl⟩ := execIrqFrame_next h
  have hbringup : s.bringup = .armed := inv.armed.index.2 (by rw [harmed]; rfl)
  have hrank : 3 ≤ s.bringup.rank := by rw [hbringup]; decide
  have good := (inv.channel ch (List.mem_of_getElem? hc)).acknowledge
  have armed := inv.arm single hc good hb henc hpath rfl (inv.armed.attached hbringup) hrank hbringup
    (inv.encode_swapped harmed hidle)
  exact armed.quiet.leaveHandler

/-- The first arm keeps the invariant (42_timing_and_bringup R156). -/
theorem Inv.brgArm {c k : Nat} {s t : State} (inv : Inv s) (single : s.cfg.nch = 1) (free : producerBusy s = false)
    (h : execBrgArm c k s = .next t) : Inv t := by
  obtain ⟨hbringup, hattached, u, v, hconf, hstart, rfl⟩ := execBrgArm_next h
  obtain ⟨ch, b, as, hc, hb, henc, -, hpath, hpending, rfl⟩ := configure_start_next hconf hstart
  have hrank : 3 ≤ s.bringup.rank := by rw [hbringup]; decide
  have quietly : ch.irqPending = false := by
    by_contra hset
    exact absurd (inv.context.symm.trans (hpending (by simpa using hset))) (by decide)
  rw [inv.setMasked_maskAfter]
  exact (inv.arm single hc (inv.channel ch (List.mem_of_getElem? hc)) hb henc hpath quietly hattached hrank rfl
    (.of_free free)).quiet

/-! ### Bring-up -/

/-- Out of `Armed` no buffer is armed (10_state R24). -/
theorem Inv.armed_eq_none {s : State} (inv : Inv s) (h : s.bringup ≠ .armed) : s.pool.armed = none := by
  by_contra harmed
  exact h (inv.armed.index.2 (Option.isSome_iff_ne_none.2 harmed))

/-- With nothing armed and another state than `Armed` there is nothing to ask of the armed buffer. -/
theorem ArmedGood.of_none {s : State} (hbringup : s.bringup ≠ .armed) (harmed : s.pool.armed = none) :
    ArmedGood s where
  index := by simp [hbringup, harmed]
  source := by simp [harmed]
  attached h := absurd h hbringup

/-- Bring-up below `Armed` may move on, with the blocks it configures, when the path stays valid (R151 to R155). -/
theorem Inv.advance {s : State} (inv : Inv s) {crc : ClockReset} {gpio : Gpio} {tcon : TimingCtl} {y : Bringup}
    (before : s.bringup ≠ .armed) (after : y ≠ .armed)
    (good : BringupGood { s with crc := crc, gpio := gpio, tcon := tcon, bringup := y })
    (path : pathValid s = true → pathValid { s with crc := crc, gpio := gpio, tcon := tcon, bringup := y } = true) :
    Inv { s with crc := crc, gpio := gpio, tcon := tcon, bringup := y } :=
  { inv with
    armed := .of_none after (inv.armed_eq_none before)
    bringup := good
    channel := fun ch hch => (inv.channel ch hch).mono rfl path id
    pool := { inv.pool with }
    encode := { inv.encode with } }

theorem Inv.brgClocks {s t : State} (inv : Inv s) (h : execBrgClocks s = .next t) : Inv t := by
  obtain ⟨-, hb, -, ho⟩ := bringupFrom_eq_next.1 h
  cases ho
  obtain ⟨as, heq, -⟩ := clockWrites_eq s
  rw [heq]
  refine (inv.advance (crc := ⟨true, true, false, false⟩) (gpio := s.gpio) (tcon := s.tcon) (y := .clocksEnabled)
    (by rw [hb]; decide) (by decide) ⟨fun _ => rfl, ?_, ?_, inv.bringup.wellFormed⟩ fun hpath => ?_).quiet
  · simp [Bringup.rank]
  · simp [Bringup.rank]
  · simp_all [pathValid]

theorem Inv.brgPins {s t : State} (inv : Inv s) (h : execBrgPins s = .next t) : Inv t := by
  obtain ⟨-, hb, -, ho⟩ := bringupFrom_eq_next.1 h
  cases ho
  obtain ⟨as, heq, -⟩ := pinWrites_eq s.cfg s
  rw [heq]
  refine (inv.advance (crc := s.crc) (gpio := { s.gpio with pinMode := .data }) (tcon := s.tcon)
    (y := .pinsConfigured) (by rw [hb]; decide) (by decide)
    ⟨fun _ => inv.bringup.clocks (by rw [hb]; decide), fun _ => rfl, ?_, inv.bringup.wellFormed⟩ fun hpath => ?_).quiet
  · simp [Bringup.rank]
  · simp_all [pathValid]

theorem Inv.tconCfg {o : TimingOperand} {s t : State} (inv : Inv s) (h : execTconCfg o s = .next t) : Inv t := by
  obtain ⟨hb, ⟨e, rfl⟩ | ⟨hactive, hdiv, rfl⟩⟩ := execTconCfg_next h
  · exact inv.quiet
  · obtain ⟨as, heq, -⟩ := timingWrites_eq (o.record s.cfg) s
    rw [heq]
    refine (inv.advance (crc := s.crc) (gpio := s.gpio) (tcon := ⟨o.record s.cfg, .all, true⟩)
      (y := .timingConfigured) (by rw [hb]; decide) (by decide)
      ⟨fun _ => inv.bringup.clocks (by rw [hb]; decide), fun _ => inv.bringup.pins (by rw [hb]; decide), fun _ => rfl,
        fun _ => ⟨hactive, hdiv⟩⟩ fun hpath => ?_).quiet
    simp_all [pathValid]

theorem Inv.brgInit {items : PanelOperand} {s t : State} (inv : Inv s) (h : execBrgInit items s = .next t) :
    Inv t := by
  obtain ⟨hb, -, u, hu, rfl⟩ := execBrgInit_next h
  have invU : Inv u := emitItems_keeps Inv.pinWrite inv hu
  have hbU : u.bringup = .timingConfigured := (congrArg Holdings.bringup (emitItems_holdings hu)).trans hb
  obtain ⟨clocks, pins, timing, wellFormed⟩ := invU.bringup
  rw [hbU] at clocks pins timing
  exact (invU.advance (crc := u.crc) (gpio := u.gpio) (tcon := u.tcon) (y := .streamingCommand)
    (by rw [hbU]; decide) (by decide)
    ⟨fun _ => clocks (by decide), fun _ => pins (by decide), fun _ => timing (by decide), wellFormed⟩ id).quiet

/-! ### The pool -/

/-- With no pool no TransferBuffer exists and none holds a value (43_pool_and_dma R185). -/
theorem PoolGood.of_empty {s : State} (hfree : s.pool.allocated = false) (hbufs : s.pool.bufs = [])
    (hmem : s.txMem = []) : PoolGood s where
  size h := absurd (hfree.symm.trans h) (by decide)
  none _ := ⟨hbufs, hmem⟩
  shape := by simp [hbufs]
  apart := by simp [hbufs]
  encoded := by simp [hbufs]

theorem buffersApart_comm (a b : Buffer) : buffersApart a b = buffersApart b a := by
  simp only [buffersApart]
  congr 2 <;> exact propext or_comm

/-- Regions checked pairwise are apart, two by two (R180). -/
theorem allApart_iff_pairwise (bs : List Buffer) :
    allApart bs = true ↔ bs.Pairwise fun a b => buffersApart a b = true := by
  induction bs with
  | nil => simp [allApart]
  | cons b bs ih => simp [allApart, List.pairwise_cons, ih]

theorem apart_of_allApart {bs : List Buffer} (h : allApart bs = true) {i j : Nat} {a b : Buffer} (hij : i ≠ j)
    (ha : bs[i]? = some a) (hb : bs[j]? = some b) : buffersApart a b = true := by
  have pairwise := List.pairwise_iff_getElem.1 ((allApart_iff_pairwise bs).1 h)
  obtain ⟨hi, rfl⟩ := List.getElem?_eq_some_iff.1 ha
  obtain ⟨hj, rfl⟩ := List.getElem?_eq_some_iff.1 hb
  obtain hlt | hgt := Nat.lt_or_gt_of_ne hij
  · exact pairwise i j hi hj hlt
  · rw [buffersApart_comm]
    exact pairwise j i hj hi hgt

/-- The regions of an allocation that goes on are fresh buffers of one frame each (R26, R181). -/
theorem fresh_of_allocRegions {draws : List AllocDraw} {bs : List Buffer} (h : allocRegions draws 0 nPool = .ok bs) :
    bs.length = nPool ∧ ∀ b ∈ bs, b.capacity = bufWords ∧ b.encoded = false := by
  obtain ⟨length, each⟩ := allocRegions_eq_ok h
  refine ⟨length, fun b hb => ?_⟩
  obtain ⟨j, hj, rfl⟩ := List.getElem_of_mem hb
  obtain ⟨l, p, -, heq⟩ := each j (length ▸ hj)
  rw [List.getElem?_eq_getElem hj] at heq
  obtain heq := Option.some.inj heq
  rw [heq]
  exact ⟨rfl, rfl⟩

/-- The state after the pool and transfer space change while nothing is armed and the producer is free. -/
theorem Inv.withPool {s : State} (inv : Inv s) (free : producerBusy s = false) (harmed : s.pool.armed = none)
    {x : Bool} {bs : List Buffer}
    (good : PoolGood { s with pool := { s.pool with allocated := x, bufs := bs }, txMem := [] }) :
    Inv { s with pool := { s.pool with allocated := x, bufs := bs }, txMem := [] } :=
  { inv with
    txCanonical := rfl
    pool := good
    encode := .of_free free
    armed := { inv.armed with source := by simp [harmed] }
    channel := fun ch hch => { inv.channel ch hch with }
    bringup := { inv.bringup with } }

theorem Inv.poolAlloc {s t : State} (inv : Inv s) (free : producerBusy s = false) (h : execPoolAlloc s = .next t) :
    Inv t := by
  obtain ⟨hfree, hcase⟩ := execPoolAlloc_next h
  obtain ⟨hbufs, -⟩ := inv.pool.none hfree
  have harmed : s.pool.armed = none := by
    by_contra hset
    obtain ⟨k, hk⟩ := Option.ne_none_iff_exists'.1 hset
    obtain ⟨b, hb, -⟩ := inv.armed.source k hk
    simp [hbufs] at hb
  obtain ⟨e, rfl⟩ | ⟨bs, hok, haligned, hapart, hreach, rfl⟩ := hcase
  · exact (inv.withPool free harmed (x := s.pool.allocated) (bs := []) (.of_empty hfree rfl rfl)).quiet
  · obtain ⟨length, fresh⟩ := fresh_of_allocRegions hok
    refine (inv.withPool free harmed (x := true) (bs := bs) ?_).quiet
    exact
      { size := fun _ => length
        none := nofun
        shape := fun b hb => ⟨(fresh b hb).1, List.all_eq_true.1 haligned b hb, List.all_eq_true.1 hreach b hb⟩
        apart := fun _ _ _ _ => apart_of_allApart hapart
        encoded := fun b hb henc => absurd ((fresh b hb).2.symm.trans henc) (by decide) }

/-- Nothing that a release would pull away is in use (R185, R266). -/
theorem freeHazard_eq_false_iff (s : State) :
    freeHazard s = false ↔ s.pool.armed = none ∧ (∀ ch ∈ s.chans, ch.enable = false) ∧ s.irq.attached = false := by
  simp [freeHazard, and_assoc]

/-- A release leaves no pool, whether or not there was one (R185). -/
theorem PoolGood.freePool {s t : State} (good : PoolGood s) (h : freePool s = .next t) :
    t = { s with pool := { s.pool with allocated := false, bufs := [] }, txMem := [] } := by
  obtain ⟨-, ⟨hfree, rfl⟩ | ⟨-, rfl⟩⟩ := freePool_eq_next.1 h
  · obtain ⟨hbufs, hmem⟩ := good.none hfree
    rw [← hfree, ← hbufs, ← hmem]
  · rfl

theorem Inv.freePool {s t : State} (inv : Inv s) (free : producerBusy s = false) (h : freePool s = .next t) :
    Inv t := by
  obtain ⟨hsafe, -⟩ := freePool_eq_next.1 h
  obtain ⟨harmed, -⟩ := (freeHazard_eq_false_iff s).1 hsafe
  obtain rfl := inv.pool.freePool h
  exact inv.withPool free harmed (.of_empty rfl rfl rfl)

/-- A channel at rest is good in every state with its configuration. -/
theorem ChannelGood.atRest {s t : State} {ch : Channel} (good : ChannelGood s ch) (hcfg : t.cfg = s.cfg)
    (hstopped : ch.enable = false) : ChannelGood t { ch with lost := false } where
  fixed := hcfg ▸ good.fixed
  position := good.position
  running h := absurd (hstopped.symm.trans h) (by decide)
  strobe h := absurd (hstopped.symm.trans h) (by decide)
  acknowledged h := absurd (hstopped.symm.trans h) (by decide)
  kept := rfl

/-- The end of the pipeline, with every channel stopped and the pool released (42_timing_and_bringup R158, R250). -/
theorem Inv.tornDown {s : State} (inv : Inv s) (free : producerBusy s = false)
    (stopped : ∀ ch ∈ s.chans, ch.enable = false) (tr : List Access) :
    Inv { s with
      pool := ⟨false, [], none, none⟩
      txMem := []
      crc := { s.crc with clkDma := false, clkTcon := false }
      tcon := { s.tcon with known := .none, valid := false }
      chans := s.chans.map fun ch => { ch with lost := false }
      irq := { s.irq with attached := false }
      bringup := .unconfigured
      producer := { s.producer with notes := [], thenPublish := none }
      err := none
      ret := .void
      trace := tr } := by
  obtain ⟨henc, -, -⟩ := (producerBusy_eq_false_iff s).1 free
  exact
    { inv with
      txCanonical := rfl
      channels := List.length_map _ |>.trans inv.channels
      pool := .of_empty rfl rfl rfl
      encode :=
        { position := by simp [henc]
          buffer := by simp [henc]
          idle := by simp [henc]
          publish := nofun }
      half := fun _ => ⟨henc, rfl⟩
      channel := fun x hx => by
        obtain ⟨ch, hch, rfl⟩ := List.mem_map.1 hx
        exact (inv.channel ch hch).atRest rfl (stopped ch hch)
      armed := .of_none nofun rfl
      bringup :=
        { clocks := nofun
          pins := nofun
          timing := nofun
          wellFormed := nofun } }

/-- What is left of a `TEARDOWN` after its stops keeps the invariant (R158, R250). -/
theorem Inv.teardownRest {s t : State} (inv : Inv s) (free : producerBusy s = false)
    (h : teardownRest s = .next t) : Inv t := by
  obtain ⟨v, hfree, rfl⟩ := teardownRest_eq_next.1 h
  obtain ⟨hsafe, -⟩ := freePool_eq_next.1 hfree
  obtain ⟨-, stopped, -⟩ := (freeHazard_eq_false_iff _).1 hsafe
  have good : PoolGood (slotsCleared s) := { inv.pool with }
  obtain ⟨as, heq, -⟩ := clocksOff_eq v
  rw [heq, good.freePool hfree]
  simp only [pipelineEnded, slotsCleared, forgetPipeline, State.log, State.setRet, State.setBringup, State.setAttached,
    State.setArmed, State.setPending, State.forgetTiming, State.modCrc, State.modProducer]
  exact inv.tornDown free stopped _

/-- A stop keeps the invariant and leaves the producer free. -/
theorem Inv.stopAll {c n : Nat} {s t : State} (inv : Inv s) (free : producerBusy s = false)
    (h : stopAll c n s = .next t) : Inv t ∧ producerBusy t = false := by
  refine stopAll_keeps (P := fun s => Inv s ∧ producerBusy s = false) (fun hs hstop => ⟨hs.1.stop hstop, ?_⟩)
    ⟨inv, free⟩ h
  obtain ⟨ch, -, rfl⟩ := stop_eq_next.1 hstop
  exact hs.2

theorem Inv.teardown {s t : State} (inv : Inv s) (free : producerBusy s = false) (h : execTeardown s = .next t) :
    Inv t := by
  obtain ⟨-, ho⟩ := processOnly_eq_next.1 h
  obtain ⟨u, hstop, hrest⟩ := andThen_eq_next.1 ho
  obtain ⟨invU, freeU⟩ := inv.stopAll free hstop
  exact invU.teardownRest freeU hrest

/-- What is left of an operation begun by its read half keeps the invariant (20_memory R53 (d)). -/
theorem Inv.finishTorn {w : HalfWrite} {s t : State} (inv : Inv s) (hw : s.producer.halfWrite = some w)
    (h : finishTorn w s = .next t) : Inv t := by
  have written := inv.writeHalf hw
  by_cases hop : w.op = .teardown
  · rw [finishTorn_teardown hop] at h
    obtain ⟨u, hstop, hrest⟩ := andThen_eq_next.1 h
    obtain ⟨henc, hpub⟩ := inv.half (by rw [hw]; rfl)
    have free : producerBusy (Machine.writeHalf w s) = false := by
      simp [producerBusy, Machine.writeHalf, henc, hpub]
    obtain ⟨invU, freeU⟩ := written.stopAll free hstop
    exact invU.teardownRest freeU hrest
  · rw [finishTorn_of hop] at h
    cases h
    exact written.quiet

/-! ### The encode -/

/-- The words of a frame in one buffer outlast a pair written in another (43_pool_and_dma R180). -/
theorem holdsFrame_pairWritten_apart {s : State} {k j : Nat} {b x : Buffer} {e : Bool} {pair : Word × Word}
    {f : Producer → Producer} {P : Nat → Pixel} (inside : j + 2 ≤ bufWords) (apart : buffersApart b x = true)
    (h : holdsFrame s x P bufWords) : holdsFrame (pairWritten k j b e pair f s) x P bufWords := by
  intro m hm
  have frame : frameBytes = 4 * bufWords := rfl
  refine Eq.trans (read32_congr _ _ _ _ fun a hlow hhigh => ?_) (h m hm)
  have outside := not_inBuffer_of_apart (n := a) apart
    ⟨by simp only [txAddr, wordBytes] at hlow; omega, by simp only [txAddr, wordBytes] at hhigh; omega⟩
  exact memRead_writeTxPair b j pair ((s.setBuf k { b with encoded := e }).modProducer f) (by omega)

/-- After step 0 of an encode the buffer holds the command pair (41_frame_ops R135). -/
theorem holdsFrame_commandWritten (s : State) (k : Nat) (b : Buffer) (e : Bool) (f : Producer → Producer)
    (P : Nat → Pixel) :
    holdsFrame (pairWritten k 0 b e (encWord s.cfg false (cmdValue s.cfg.cmdWritePixels)) f s) b P 2 := by
  obtain ⟨hlo, hhi⟩ := frameWord_command s.cfg P
  intro m hm
  obtain rfl | rfl : m = 0 ∨ m = 1 := by omega
  · exact (readTx_writeTxPair ..).trans (congrArg some hlo.symm)
  · exact (readTx_writeTxPair ..).trans (congrArg some hhi.symm)

/-- After the pair of pixel `i` the buffer holds the words of one pixel more (R135). -/
theorem holdsFrame_pixelWritten {s : State} {k i : Nat} {b : Buffer} {e : Bool} {f : Producer → Producer}
    {P : Nat → Pixel} (p : Pixel) (h : holdsFrame s b P (2 + 2 * i)) :
    holdsFrame (pairWritten k (2 + 2 * i) b e (encWord s.cfg true p) f s) b (Function.update P i p)
      (2 + 2 * (i + 1)) := by
  obtain ⟨hlo, hhi⟩ := frameWord_pixel s.cfg (Function.update P i p) i
  rw [Function.update_self] at hlo hhi
  intro m hm
  refine (readTx_writeTxPair ..).trans ?_
  by_cases heven : m = 2 + 2 * i
  · rw [if_pos heven, heven]
    exact congrArg some hlo.symm
  · by_cases hodd : m = 3 + 2 * i
    · rw [if_neg heven, if_pos (by omega), hodd]
      exact congrArg some hhi.symm
    · rw [if_neg heven, if_neg (by omega)]
      have before : m < 2 + 2 * i := by omega
      refine (h m before).trans (congrArg some (frameWord_congr s.cfg (fun n hn => ?_) before))
      exact (Function.update_of_ne (by omega) _ _).symm

/-- A buffer of the pool after the mark of buffer `k` is set: buffer `k` but for its mark, or another one as it was. -/
theorem getElem?_set_mark {bufs : List Buffer} {k i : Nat} {b x : Buffer} {e : Bool} (hb : bufs[k]? = some b)
    (hx : (bufs.set k { b with encoded := e })[i]? = some x) :
    (i = k ∧ x = { b with encoded := e }) ∨ (i ≠ k ∧ bufs[i]? = some x) := by
  by_cases hik : i = k
  · subst hik
    obtain ⟨hlt, -⟩ := List.getElem?_eq_some_iff.1 hb
    rw [List.getElem?_set_self hlt] at hx
    exact .inl ⟨rfl, (Option.some.inj hx).symm⟩
  · rw [List.getElem?_set_ne (Ne.symm hik)] at hx
    exact .inr ⟨hik, hx⟩

theorem PoolGood.pairWritten {s : State} {k j : Nat} {b : Buffer} {e : Bool} {pair : Word × Word}
    {f : Producer → Producer} (good : PoolGood s) (hb : s.pool.bufs[k]? = some b) (inside : j + 2 ≤ bufWords)
    (frame : e = true → ∃ P, holdsFrame (pairWritten k j b e pair f s) b P bufWords) :
    PoolGood (pairWritten k j b e pair f s) where
  size h := List.length_set.trans (good.size h)
  none h := by
    obtain ⟨hbufs, -⟩ := good.none h
    simp [hbufs] at hb
  shape x hx := by
    obtain hold | rfl := List.mem_or_eq_of_mem_set hx
    · exact good.shape x hold
    · exact good.shape b (List.mem_of_getElem? hb)
  apart i l x y hil hx hy := by
    obtain ⟨rfl, rfl⟩ | ⟨-, hx'⟩ := getElem?_set_mark hb hx
    · obtain ⟨rfl, rfl⟩ | ⟨-, hy'⟩ := getElem?_set_mark hb hy
      · exact absurd rfl hil
      · exact good.apart i l b y hil hb hy'
    · obtain ⟨rfl, rfl⟩ | ⟨-, hy'⟩ := getElem?_set_mark hb hy
      · exact good.apart i l x b hil hx' hb
      · exact good.apart i l x y hil hx' hy'
  encoded x hx henc := by
    obtain ⟨i, hi⟩ := List.mem_iff_getElem?.1 hx
    obtain ⟨-, rfl⟩ | ⟨hik, hi⟩ := getElem?_set_mark hb hi
    · exact frame henc
    · obtain ⟨P, hP⟩ := good.encoded x (List.mem_of_getElem? hi) henc
      exact ⟨P, holdsFrame_pairWritten_apart inside (good.apart k i b x (Ne.symm hik) hb hi) hP⟩

/-- A buffer that may be written is neither armed nor published (R136, R261). -/
theorem slots_ne_of_bufferInUse {s : State} {k : Nat} {b : Buffer} (h : bufferInUse s k b = false) :
    s.pool.armed ≠ some k ∧ s.pool.pendingNext ≠ some k := by
  simp only [bufferInUse, Bool.or_eq_false_iff, decide_eq_false_iff_not] at h
  obtain ⟨⟨harmed, hpending⟩, -⟩ := h
  exact ⟨harmed, hpending⟩

/-- A pair written inside a buffer that is not in use keeps the invariant when it keeps what is said of the encode. -/
theorem Inv.pairWritten {s : State} {k j : Nat} {b : Buffer} {e : Bool} {pair : Word × Word}
    {f : Producer → Producer} (inv : Inv s) (hb : s.pool.bufs[k]? = some b) (huse : bufferInUse s k b = false)
    (inside : j + 2 ≤ bufWords) (frame : e = true → ∃ P, holdsFrame (pairWritten k j b e pair f s) b P bufWords)
    (encode : EncodeGood (pairWritten k j b e pair f s))
    (half : (f s.producer).halfWrite.isSome = true →
      (f s.producer).encoding = none ∧ (f s.producer).thenPublish = none) :
    Inv (pairWritten k j b e pair f s) :=
  { inv with
    txCanonical := write32_wf _ _ _ _ (write32_wf _ _ _ _ inv.txCanonical)
    pool := inv.pool.pairWritten hb inside frame
    encode := encode
    half := half
    armed :=
      { inv.armed with
        source := fun l hl => by
          obtain ⟨x, hx, hrest⟩ := inv.armed.source l hl
          have other : k ≠ l := fun hkl => (slots_ne_of_bufferInUse huse).1 (hkl ▸ hl)
          exact ⟨x, (List.getElem?_set_ne other).trans hx, hrest⟩ }
    channel := fun ch hch => { inv.channel ch hch with }
    bringup := { inv.bringup with } }

/-- Step 0 of an encode (41_frame_ops R135), by a free producer. -/
theorem Inv.encFrame {k : Nat} {s t : State} (inv : Inv s) (free : producerBusy s = false)
    (h : execEncFrame k s = .next t) : Inv t := by
  obtain ⟨e, rfl⟩ | ⟨b, hb, huse, rfl⟩ := execEncFrame_next h
  · exact inv.quiet
  · obtain ⟨-, hpub, hhalf⟩ := (producerBusy_eq_false_iff s).1 free
    obtain ⟨hlt, -⟩ := List.getElem?_eq_some_iff.1 hb
    have inside : 0 + 2 ≤ bufWords := by decide
    have started : 0 < nPix := by decide
    refine (inv.pairWritten hb huse inside (fun h => absurd h (by decide)) ?_
      fun h => absurd h (by simp [hhalf])).quiet
    exact
      { position := fun _ _ => started
        buffer := fun l hl => by
          obtain rfl : k = l := Option.some.inj hl
          exact ⟨_, fun _ => 0, List.getElem?_set_self hlt, rfl, holdsFrame_commandWritten s k b _ _ _⟩
        idle := fun l hl => by
          obtain rfl : k = l := Option.some.inj hl
          exact slots_ne_of_bufferInUse huse
        publish := fun l hl => absurd (hpub.symm.trans hl) nofun }

/-- After a pixel the encode goes on in its buffer unless that was the last one (R135). -/
theorem producerAfter_encoding_eq_some {k i l : Nat} {p : Producer} :
    (producerAfter k i p).encoding = some l ↔ i + 1 ≠ nPix ∧ l = k := by
  unfold producerAfter
  by_cases hlast : i + 1 = nPix <;> simp [hlast, eq_comm]

/-- A publish that is owed during an encode is that of its buffer (60_exceptions R232). -/
theorem EncodeGood.owed_eq {s : State} {k l : Nat} (good : EncodeGood s) (hk : s.producer.encoding = some k)
    (hl : s.producer.thenPublish = some l) : l = k := by
  obtain hcurrent | ⟨hnone, -⟩ := good.publish l hl
  · exact Option.some.inj (hcurrent.symm.trans hk)
  · exact absurd (hnone.symm.trans hk) nofun

/-- What is said of an encode holds after the pair of a pixel is written and the buffer's mark set accordingly (R135). -/
theorem EncodeGood.pixelWritten {s : State} {k : Nat} {b : Buffer} {P : Nat → Pixel} (good : EncodeGood s)
    (hk : s.producer.encoding = some k) (hb : s.pool.bufs[k]? = some b) (huse : bufferInUse s k b = false)
    (hP : holdsFrame s b P (2 + 2 * s.producer.encIdx)) (p : Pixel) :
    EncodeGood (pairWritten k (2 + 2 * s.producer.encIdx) b (decide (s.producer.encIdx + 1 = nPix))
      (encWord s.cfg true p) (producerAfter k s.producer.encIdx) s) := by
  obtain ⟨hlt, -⟩ := List.getElem?_eq_some_iff.1 hb
  have position := good.position k hk
  exact
    { position := fun l hl => by
        obtain ⟨hmore, -⟩ := producerAfter_encoding_eq_some.1 hl
        exact Nat.lt_of_le_of_ne position hmore
      buffer := fun l hl => by
        obtain ⟨hmore, rfl⟩ := producerAfter_encoding_eq_some.1 hl
        exact ⟨_, _, List.getElem?_set_self hlt, decide_eq_false hmore, holdsFrame_pixelWritten p hP⟩
      idle := fun l hl => by
        obtain ⟨-, rfl⟩ := producerAfter_encoding_eq_some.1 hl
        exact slots_ne_of_bufferInUse huse
      publish := fun l hl => by
        obtain rfl := good.owed_eq hk hl
        by_cases hlast : s.producer.encIdx + 1 = nPix
        · obtain ⟨harmed, hpending⟩ := slots_ne_of_bufferInUse huse
          exact .inr ⟨if_pos hlast, harmed, hpending, _, List.getElem?_set_self hlt, decide_eq_true hlast⟩
        · exact .inl (if_neg hlast) }

/-- A further step of an encode (R135). -/
theorem Inv.encodeStep {s t : State} (inv : Inv s) (h : encodeStep s = .next t) : Inv t := by
  obtain ⟨k, b, p, hk, hb, huse, rfl⟩ := encodeStep_next h
  obtain ⟨b', P, hb', -, hP⟩ := inv.encode.buffer k hk
  obtain rfl := Option.some.inj (hb.symm.trans hb')
  have position := inv.encode.position k hk
  have words : bufWords = 2 + 2 * nPix := rfl
  refine inv.pairWritten hb huse (by omega) (fun hlast => ⟨Function.update P s.producer.encIdx p, ?_⟩)
    (inv.encode.pixelWritten hk hb huse hP p) fun h => absurd ((inv.half h).1.symm.trans hk) nofun
  rw [words, ← of_decide_eq_true hlast]
  exact holdsFrame_pixelWritten p hP

/-! ### Every instruction and every step -/

/-- Every instruction keeps the invariant, when the producer is free to issue one of its own. -/
theorem Inv.exec {i : Instr} {s t : State} (inv : Inv s) (single : s.cfg.nch = 1)
    (free : isProducers i = true → producerBusy s = false) (h : exec i s = .next t) : Inv t := by
  cases i with
  | cmdLo v => exact inv.pinWrite h
  | cmdHi v => exact inv.pinWrite h
  | datLo v => exact inv.pinWrite h
  | datHi v => exact inv.pinWrite h
  | encCmd b => cases h; exact inv.quiet
  | encPix p => cases h; exact inv.quiet
  | decWord w => cases h; exact inv.quiet
  | emitPair lo hi =>
    obtain ⟨u, hu, rfl⟩ := returning_eq_next.1 h
    exact (emitWords_keeps Inv.pinWrite inv hu).quiet
  | encFrame k => exact inv.encFrame (free rfl) h
  | brgClocks => exact inv.brgClocks h
  | brgPins => exact inv.brgPins h
  | tconCfg o => exact inv.tconCfg h
  | brgInit items => exact inv.brgInit h
  | brgArm c k => exact inv.brgArm single (free rfl) h
  | teardown => exact inv.teardown (free rfl) h
  | poolAlloc => exact inv.poolAlloc (free rfl) h
  | poolBuf k =>
    obtain ⟨-, -, b, -, ho⟩ := withBuf_eq_next.1 h
    cases ho
    exact inv.quiet
  | poolFree =>
    obtain ⟨-, ho⟩ := processOnly_eq_next.1 h
    obtain ⟨u, hu, rfl⟩ := returning_eq_next.1 ho
    exact (inv.freePool (free rfl) hu).quiet
  | dmaConfigure c k => exact absurd (inv.context.symm.trans (handlerOnly_eq_next.1 h).1) (by decide)
  | dmaStart c =>
    obtain ⟨u, hu, rfl⟩ := returning_eq_next.1 h
    exact (inv.start hu).quiet
  | dmaStop c =>
    obtain ⟨-, ho⟩ := processOnly_eq_next.1 h
    obtain ⟨u, hu, rfl⟩ := returning_eq_next.1 ho
    exact (inv.stop hu).quiet
  | dmaAck c =>
    obtain ⟨u, hu, rfl⟩ := returning_eq_next.1 h
    exact (inv.acknowledge hu).quiet
  | dmaRearm c k => exact absurd (inv.context.symm.trans (handlerOnly_eq_next.1 h).1) (by decide)
  | dmaXfer c => exact inv.dmaXfer h
  | publishNext k =>
    obtain rfl := execPublishNext_next h
    exact (inv.publish (free rfl) k).quiet
  | queryInflight => cases h; exact inv.quiet
  | irqFrame c => exact inv.irqFrame single h

/-- Taking up a notification keeps the invariant: the encode it starts is followed by the publish it owes. -/
theorem Inv.takeUp {n : Nat} {rest : List Nat} {s t : State} (inv : Inv s) (free : producerBusy s = false)
    (h : takeUp n rest s = .next t) : Inv t := by
  obtain ⟨u, hu, hlast⟩ := andThen_eq_next.1 h
  cases hlast
  have invTaken : Inv (s.modProducer fun p => { p with notes := rest }) := inv.quiet
  exact (invTaken.encFrame free hu).owePublish

/-- A step of the producer by itself keeps the invariant (41_frame_ops R135, 60_exceptions R232). -/
theorem Inv.producerWork {s t : State} (inv : Inv s) (single : s.cfg.nch = 1) (h : producerWork s = .next t) :
    Inv t := by
  unfold Machine.producerWork at h
  split at h
  · exact inv.encodeStep h
  · rename_i hidle
    have henc : s.producer.encoding = none := by simpa using hidle
    split at h
    · rename_i k hk
      refine inv.forgetPublish.exec single (fun _ => ?_) h
      have hhalf : s.producer.halfWrite = none := by
        by_contra hset
        exact absurd ((inv.half (Option.isSome_iff_ne_none.2 hset)).2.symm.trans hk) nofun
      exact (producerBusy_eq_false_iff _).2 ⟨henc, rfl, hhalf⟩
    · rename_i hpub
      split at h
      · rename_i w hw
        exact inv.finishTorn hw h
      · rename_i hhalf
        unfold nextNote at h
        split at h
        · split at h
          · exact inv.takeUp ((producerBusy_eq_false_iff s).2 ⟨henc, hpub, hhalf⟩) h
          · cases h
        · cases h

/-- The read half of an operation is all that a free producer's beginning of it does (20_memory R53 (d)). -/
theorem Inv.beginTorn {op : TornOp} {s t : State} (inv : Inv s) (free : producerBusy s = false)
    (h : beginTorn op s = .next t) : Inv t := by
  obtain ⟨-, -, rfl⟩ := beginTorn_eq_next.1 h
  obtain ⟨henc, hpub, -⟩ := (producerBusy_eq_false_iff s).1 free
  exact (inv.withHalf henc hpub _).quiet

/-- The model admits one channel (92_eei_decisions D12). -/
theorem nch_of_configProblem {c : Config} (h : configProblem c = none) : c.nch = 1 := by
  unfold configProblem at h
  split at h
  · cases h
  · split at h
    · cases h
    · rename_i hone
      exact not_not.1 hone

/-- Settles O51: `step_move` names the moves, each of which is shown to keep the invariant. -/
theorem stepKeepsTheInvariant : Obligations.StepKeepsTheInvariant := by
  intro s t inv hstep
  obtain ⟨hc, move⟩ := step_move hstep
  have single := nch_of_configProblem hc
  cases move with
  | runs i q free h => exact (inv.quiet (q := q)).exec single free h
  | works q h => exact (inv.quiet (q := q)).producerWork single h
  | begins op q free h => exact (inv.quiet (q := q)).beginTorn free h
  | attaches q h => cases h; exact inv.attach.quiet
  | writesPixel i p q h =>
    unfold collaboratorWrites at h
    split at h
    · cases h
      exact (inv.withPix (pix := { s.pix with mem := write16 s.cfg.endian s.pix.mem (s.pix.base + 2 * i) p })
        (write16_wf _ _ _ _ inv.pixCanonical) inv.pixAligned).quiet
    · cases h
  | handsOver base bytes q h =>
    unfold collaboratorHandsOver at h
    split at h
    · rename_i aligned
      cases h
      exact (inv.withPix (pix := { s.pix with base := base, bytes := bytes }) inv.pixCanonical aligned).quiet
    · cases h
  | notifies offset k q h => cases h; exact inv.quiet
  | answers draws q h => cases h; exact inv.quiet
  | rests h => exact h ▸ inv

end Sys2Proof.Machine
end

section
/-! PROOF of the statement of 20_memory about register writes: each is a read-modify-write, and an operation in two halves
ends where the whole one does. -/

namespace Sys2Proof.Machine

/-! ### Traces of read-modify-writes -/

/-- A list of accesses that writes `PINDATA` alone, or nothing, asks for no read (10_state R30, 20_memory R66). -/
theorem readModifyWrites_of_pinData {m : RegMap} {as : List Access} (h : ∀ f ∈ fieldsWritten as, f = .pinData) :
    readModifyWrites m as := by
  rintro pre a f w post rfl hf
  exact absurd (h f (by simp [fieldsWritten, Access.field?])) hf

/-- Bits outside a field keep their values when the field is written. -/
theorem insertBits_getLsbD_outside (l : Loc) (v : Nat) (w : Word) {n : Nat} (hn : n < l.lsb ∨ l.lsb + l.width ≤ n) :
    (insertBits l v w).getLsbD n = w.getLsbD n := by
  by_cases h32 : n < 32
  · rw [insertBits_getLsbD l v w n h32, if_neg (by omega)]
  · rw [BitVec.getLsbD_of_ge _ _ (by omega), BitVec.getLsbD_of_ge _ _ (by omega)]

/-- The two accesses of a register write are a read-modify-write. -/
theorem readModifyWrites_regAccesses (f : RegField) (v : Nat) (s : State) :
    readModifyWrites s.cfg.regmap (regAccesses f v s) := by
  intro pre a f' w post h _
  match pre with
  | [] => cases h
  | [old] =>
    cases h
    exact ⟨rfl, [], _, rfl, fun n hn => insertBits_getLsbD_outside _ _ _ hn⟩
  | _ :: _ :: pre => simp [regAccesses] at h

theorem readModifyWrites_append {m : RegMap} {as bs : List Access} (has : readModifyWrites m as)
    (hbs : readModifyWrites m bs) : readModifyWrites m (as ++ bs) := by
  intro pre a f w post h hf
  obtain ⟨mid, rfl, rfl⟩ | ⟨mid, rfl, hmid⟩ := List.append_eq_append_iff.1 h
  · obtain ⟨ha, pre', old, rfl, hbits⟩ := hbs mid a f w post rfl hf
    exact ⟨ha, as ++ pre', old, (List.append_assoc ..).symm, hbits⟩
  · cases mid with
    | nil =>
      obtain ⟨-, pre', old, hnil, -⟩ := hbs [] a f w post hmid.symm hf
      simp at hnil
    | cons x mid =>
      obtain ⟨rfl, rfl⟩ := List.cons.inj hmid
      exact has pre a f w mid rfl hf

/-- From `s` to `t` the registers change by read-modify-writes alone, and `PINDATA`, as the trace shows; the bits no rule
names keep their values (20_memory R66). -/
structure Disciplined (s t : State) : Prop where
  cfg : t.cfg = s.cfg
  other : t.regOther = s.regOther
  trace : ∃ as, t.trace = s.trace ++ as ∧ readModifyWrites s.cfg.regmap as

namespace Disciplined

theorem trans {s u t : State} (h : Disciplined s u) (h' : Disciplined u t) : Disciplined s t where
  cfg := h'.cfg.trans h.cfg
  other := h'.other.trans h.other
  trace := by
    obtain ⟨as, has, hr⟩ := h.trace
    obtain ⟨bs, hbs, hr'⟩ := h'.trace
    exact ⟨as ++ bs, by rw [hbs, has, List.append_assoc], readModifyWrites_append hr (h.cfg ▸ hr')⟩

/-- Accesses that write `PINDATA` alone, or nothing. -/
theorem of_pinData {s t : State} (as : List Access) (hcfg : t.cfg = s.cfg) (hother : t.regOther = s.regOther)
    (htrace : t.trace = s.trace ++ as) (h : ∀ f ∈ fieldsWritten as, f = .pinData) : Disciplined s t :=
  ⟨hcfg, hother, as, htrace, readModifyWrites_of_pinData h⟩

/-- No access. -/
theorem of_eq {s t : State} (hcfg : t.cfg = s.cfg) (hother : t.regOther = s.regOther) (htrace : t.trace = s.trace) :
    Disciplined s t :=
  of_pinData [] hcfg hother (by rw [htrace, List.append_nil]) (by simp [fieldsWritten])

/-- One register write. -/
theorem of_regAccesses {s t : State} {f : RegField} {v : Nat} (hcfg : t.cfg = s.cfg)
    (hother : t.regOther = s.regOther) (htrace : t.trace = s.trace ++ regAccesses f v s) : Disciplined s t :=
  ⟨hcfg, hother, _, htrace, readModifyWrites_regAccesses f v s⟩

/-- A change that touches neither registers nor the trace may follow. -/
theorem quiet {s u t : State} (h : Disciplined s u) (hcfg : t.cfg = u.cfg) (hother : t.regOther = u.regOther)
    (htrace : t.trace = u.trace) : Disciplined s t :=
  h.trans (.of_eq hcfg hother htrace)

theorem modChan (s : State) (c : Nat) (f : Channel → Channel) : Disciplined s (s.modChan c f) := of_eq rfl rfl rfl

theorem setPinMode (s : State) (m : PinMode) : Disciplined s (s.setPinMode m) := of_eq rfl rfl rfl

theorem setTimingValid (s : State) (v : Bool) : Disciplined s (s.setTimingValid v) := of_eq rfl rfl rfl

theorem advanced (s : State) (b : Bringup) (r : Ret) : Disciplined s ((s.setBringup b).setRet r) := of_eq rfl rfl rfl

theorem ended (s : State) : Disciplined s (pipelineEnded s) := of_eq rfl rfl rfl

theorem regWrites (fs : List (RegField × Nat)) (s : State) : Disciplined s (regWrites fs s) := by
  induction fs generalizing s with
  | nil => exact .of_eq rfl rfl rfl
  | cons x fs ih =>
    exact (of_regAccesses (regWrite_cfg s x.1 x.2) (regWrite_regOther s x.1 x.2) (regWrite_trace s x.1 x.2)).trans (ih _)

theorem pinWrite {w : Word} {s t : State} (h : pinWrite w s = .next t) : Disciplined s t := by
  obtain ⟨-, -, rfl⟩ := pinWrite_eq_next.1 h
  exact .of_pinData [.write (RegMap.pinDataAddr s.cfg.regmap) .pinData w] rfl rfl rfl
    (by simp [fieldsWritten, Access.field?])

theorem emitWords {lo hi : Word} {s t : State} (h : emitWords lo hi s = .next t) : Disciplined s t :=
  emitWords_keeps (P := Disciplined s) (fun hs hw => hs.trans (.pinWrite hw)) (.of_eq rfl rfl rfl) h

theorem emitItems {items : List PanelItem} {s t : State} (h : emitItems items s = .next t) : Disciplined s t :=
  emitItems_keeps (P := Disciplined s) (fun hs hw => hs.trans (.pinWrite hw)) (.of_eq rfl rfl rfl) h

theorem stop {c : Nat} {s t : State} (h : stop c s = .next t) : Disciplined s t := by
  obtain ⟨ch, -, rfl⟩ := stop_eq_next.1 h
  exact .of_regAccesses rfl rfl rfl

theorem acknowledge {c : Nat} {s t : State} (h : acknowledge c s = .next t) : Disciplined s t := by
  obtain ⟨ch, -, rfl⟩ := acknowledge_eq_next.1 h
  exact .of_regAccesses rfl rfl rfl

theorem masks (s : State) : Disciplined s ((s.setMasked true).log [.mask]) :=
  of_pinData [.mask] rfl rfl rfl nofun

theorem unmasks (s : State) : Disciplined s ((s.setMasked false).log [.unmask]) :=
  of_pinData [.unmask] rfl rfl rfl nofun

/-- A configuration: its four writes, between the accesses of the mask where they are needed (43_pool_and_dma R187,
60_exceptions R219). -/
theorem configure {c k : Nat} {s t : State} (h : configure c k s = .next t) : Disciplined s t := by
  obtain ⟨ch, b, -, -, -, -, -, -, -, rfl⟩ := configure_eq_next.1 h
  have writes : ∀ u : State,
      Disciplined u ((Machine.regWrites (configureWrites u.cfg c b) u).markConfigured c) := fun u =>
    (regWrites (configureWrites u.cfg c b) u).trans (modChan _ c _)
  unfold configuredState
  split
  · exact ((masks s).trans (writes _)).trans (unmasks _)
  · exact writes s

theorem start {c : Nat} {s t : State} (h : start c s = .next t) : Disciplined s t := by
  obtain ⟨ch, -, ⟨-, rfl⟩ | ⟨-, -, -, -, rfl⟩⟩ := start_eq_next.1 h
  · exact .of_eq rfl rfl rfl
  · exact (modChan s c fun ch => { ch with dmaPos := 0 }).trans (regWrites [(.enable c, 1)] _)

theorem rearm {c k : Nat} {s t : State} (h : rearm c k s = .next t) : Disciplined s t := by
  obtain ⟨u, v, hack, hconf, hstart⟩ := rearm_eq_next.1 h
  exact ((acknowledge hack).trans (configure hconf)).trans (start hstart)

theorem takesPending (s : State) : Disciplined s (takePending s) :=
  of_pinData [.slotTake s.pool.pendingNext] rfl rfl rfl nofun

theorem marksArmed (k : Nat) (s : State) : Disciplined s (markArmed k s) :=
  of_pinData [.armedSet (some k)] rfl rfl rfl nofun

/-- A handler run: its first acknowledge, the accesses of the slots, the re-arm (60_exceptions R222). -/
theorem irqFrame {c : Nat} {s t : State} (h : execIrqFrame c s = .next t) : Disciplined s t := by
  obtain ⟨same, u, -, hbody, rfl⟩ := irqFrame_inv h
  obtain ⟨v, hack, hrearm⟩ := andThen_eq_next.1 hbody
  have entered : Disciplined s (enterHandler s) := .of_eq rfl rfl rfl
  have swapped := (takesPending v).trans (marksArmed (nextArmed v same) (takePending v))
  exact (((entered.trans (acknowledge hack)).trans swapped).trans (rearm hrearm)).quiet rfl rfl rfl

theorem freePool {s t : State} (h : freePool s = .next t) : Disciplined s t := by
  obtain ⟨-, ⟨-, rfl⟩ | ⟨-, rfl⟩⟩ := freePool_eq_next.1 h
  · exact .of_eq rfl rfl rfl
  · exact .of_eq rfl rfl rfl

theorem teardown {s t : State} (h : execTeardown s = .next t) : Disciplined s t := by
  obtain ⟨-, ho⟩ := processOnly_eq_next.1 h
  obtain ⟨u, hstop, hrest⟩ := andThen_eq_next.1 ho
  obtain ⟨v, hfree, rfl⟩ := teardownRest_eq_next.1 hrest
  have stopped : Disciplined s u :=
    stopAll_keeps (P := Disciplined s) (fun hs hc => hs.trans (stop hc)) (.of_eq rfl rfl rfl) hstop
  have cleared : Disciplined u (slotsCleared u) := .of_pinData _ rfl rfl rfl nofun
  have clocks := regWrites [(.clkDma, 0), (.clkTcon, 0)] v
  exact (((stopped.trans cleared).trans (freePool hfree)).trans clocks).trans (ended _)

/-- Every instruction. -/
theorem exec {i : Instr} {s t : State} (h : exec i s = .next t) : Disciplined s t := by
  cases i with
  | cmdLo v => exact pinWrite h
  | cmdHi v => exact pinWrite h
  | datLo v => exact pinWrite h
  | datHi v => exact pinWrite h
  | encCmd b => cases h; exact .of_eq rfl rfl rfl
  | encPix p => cases h; exact .of_eq rfl rfl rfl
  | decWord w => cases h; exact .of_eq rfl rfl rfl
  | emitPair lo hi =>
    obtain ⟨u, hu, rfl⟩ := returning_eq_next.1 h
    exact (emitWords hu).quiet rfl rfl rfl
  | encFrame k =>
    obtain ⟨e, rfl⟩ | ⟨b, -, -, rfl⟩ := execEncFrame_next h
    · exact .of_eq rfl rfl rfl
    · exact .of_eq rfl rfl rfl
  | brgClocks =>
    obtain ⟨-, -, -, ho⟩ := bringupFrom_eq_next.1 h
    cases ho
    exact (regWrites [(.rstDma, 0), (.rstTcon, 0), (.clkDma, 1), (.clkTcon, 1)] s).trans (advanced _ _ _)
  | brgPins =>
    obtain ⟨-, -, -, ho⟩ := bringupFrom_eq_next.1 h
    cases ho
    exact ((regWrites (pinWrites s.cfg) s).trans (setPinMode _ _)).trans (advanced _ _ _)
  | tconCfg o =>
    obtain ⟨-, ⟨e, rfl⟩ | ⟨-, -, rfl⟩⟩ := execTconCfg_next h
    · exact .of_eq rfl rfl rfl
    · exact ((regWrites (timingWrites (o.record s.cfg)) s).trans (setTimingValid _ _)).trans (advanced _ _ _)
  | brgInit items =>
    obtain ⟨-, -, u, hu, rfl⟩ := execBrgInit_next h
    exact (emitItems hu).trans (advanced _ _ _)
  | brgArm c k =>
    obtain ⟨-, -, u, v, hconf, hstart, rfl⟩ := execBrgArm_next h
    exact ((configure hconf).trans (start hstart)).trans (.of_pinData [.armedSet (some k)] rfl rfl rfl nofun)
  | teardown => exact teardown h
  | poolAlloc =>
    obtain ⟨-, ⟨e, rfl⟩ | ⟨bs, -, -, -, -, rfl⟩⟩ := execPoolAlloc_next h
    · exact .of_eq rfl rfl rfl
    · exact .of_eq rfl rfl rfl
  | poolBuf k =>
    obtain ⟨-, -, b, -, ho⟩ := withBuf_eq_next.1 h
    cases ho
    exact .of_eq rfl rfl rfl
  | poolFree =>
    obtain ⟨-, ho⟩ := processOnly_eq_next.1 h
    obtain ⟨u, hu, rfl⟩ := returning_eq_next.1 ho
    exact (freePool hu).quiet rfl rfl rfl
  | dmaConfigure c k =>
    obtain ⟨u, hu, rfl⟩ := returning_eq_next.1 (handlerOnly_eq_next.1 h).2
    exact (configure hu).quiet rfl rfl rfl
  | dmaStart c =>
    obtain ⟨u, hu, rfl⟩ := returning_eq_next.1 h
    exact (start hu).quiet rfl rfl rfl
  | dmaStop c =>
    obtain ⟨u, hu, rfl⟩ := returning_eq_next.1 (processOnly_eq_next.1 h).2
    exact (stop hu).quiet rfl rfl rfl
  | dmaAck c =>
    obtain ⟨u, hu, rfl⟩ := returning_eq_next.1 h
    exact (acknowledge hu).quiet rfl rfl rfl
  | dmaRearm c k =>
    obtain ⟨u, hu, rfl⟩ := returning_eq_next.1 (handlerOnly_eq_next.1 h).2
    exact (rearm hu).quiet rfl rfl rfl
  | dmaXfer c =>
    obtain ⟨ch, w, u, -, -, -, -, hu, rfl⟩ := execDmaXfer_next h
    exact (pinWrite hu).quiet rfl rfl rfl
  | publishNext k =>
    obtain rfl := execPublishNext_next h
    exact .of_pinData [.slotPut k] rfl rfl rfl nofun
  | queryInflight => cases h; exact .of_eq rfl rfl rfl
  | irqFrame c => exact irqFrame h

end Disciplined

/-! ### The two halves of an operation -/

/-- A write-back of an enable bit or a completion status changes that field of its channel alone, and puts the word read
with the field cleared (20_memory R53 (d), R66). -/
theorem writeHalf_of {s : State} {h : HalfWrite} {c : Nat} {ch ch' : Channel} (hc : s.chans[c]? = some ch)
    (hcase : (h.op.field = .enable c ∧ ch' = { ch with enable := false }) ∨
      (h.op.field = .status c ∧ ch' = { ch with irqPending := false })) :
    ∃ w, clearedWithin (RegMap.locate s.cfg.regmap h.op.field).bits h.read w ∧
      writeHalf h s = { s with
        chans := s.chans.set c ch'
        trace := s.trace ++ [.write (RegMap.locate s.cfg.regmap h.op.field).addr h.op.field w]
        producer := { s.producer with halfWrite := none } } := by
  refine ⟨_, clearedWithin_insertBits _ _, ?_⟩
  have changed : setField h.op.field 0 s = s.setChan c ch' := by
    obtain ⟨hfield, rfl⟩ | ⟨hfield, rfl⟩ := hcase
    · rw [hfield]
      exact modChan_of hc _
    · rw [hfield]
      exact modChan_of hc _
  rw [writeHalf, changed]
  rfl

/-- A state with another trace and another half operation. -/
def State.retraced (tr : List Access) (h : Option HalfWrite) (s : State) : State :=
  { s with trace := tr, producer := { s.producer with halfWrite := h } }

theorem setField_retraced (f : RegField) (v : Nat) (tr : List Access) (h : Option HalfWrite) (s : State) :
    setField f v (s.retraced tr h) = (setField f v s).retraced tr h := by
  cases f <;> rfl

theorem setFields_retraced (fs : List (RegField × Nat)) (tr : List Access) (h : Option HalfWrite) (s : State) :
    setFields fs (s.retraced tr h) = (setFields fs s).retraced tr h := by
  induction fs generalizing s with
  | nil => rfl
  | cons x fs ih => rw [setFields, setField_retraced, ih]; rfl

/-- Register writes see nothing of the trace and of half an operation, but for the words they read. -/
theorem regWrites_retraced (fs : List (RegField × Nat)) (s : State) (tr : List Access) (w : Option HalfWrite) :
    ∃ as, regWrites fs (s.retraced tr w) = (regWrites fs s).retraced (tr ++ as) w ∧ fieldsWritten as = fs.map (·.1) := by
  obtain ⟨as, hs, -⟩ := regWrites_eq fs s
  obtain ⟨bs, hr, hwritten, -⟩ := regWrites_eq fs (s.retraced tr w)
  refine ⟨bs, ?_, hwritten⟩
  rw [hr, hs, setFields_retraced]
  rfl

/-- Nor do stops (43_pool_and_dma R189). -/
theorem stopAll_retraced {c n : Nat} {s v : State} (h : stopAll c n s = .next v) (tr : List Access)
    (w : Option HalfWrite) :
    ∃ as, stopAll c n (s.retraced tr w) = .next (v.retraced (tr ++ as) w) ∧
      fieldsWritten as = (List.range' c n).map RegField.enable := by
  induction n generalizing c s tr with
  | zero =>
    cases h
    exact ⟨[], by rw [List.append_nil]; rfl, rfl⟩
  | succ n ih =>
    obtain ⟨u, hstop, hrest⟩ := andThen_eq_next.1 h
    obtain ⟨ch, hc, hu⟩ := withChan_eq_next.1 hstop
    cases hu
    obtain ⟨as, hfirst, hwritten⟩ := regWrites_retraced [(.enable c, 0)] s tr w
    obtain ⟨bs, hothers, hwritten'⟩ := ih hrest (tr ++ as)
    have first : stop c (s.retraced tr w) = .next ((regWrite (.enable c) 0 s).retraced (tr ++ as) w) :=
      (withChan_of (s := s.retraced tr w) hc _).trans (congrArg Host.Outcome.next hfirst)
    refine ⟨as ++ bs, ?_, ?_⟩
    · rw [stopAll, first, andThen_next, hothers, List.append_assoc]
    · rw [fieldsWritten_append, hwritten, hwritten']
      rfl

theorem freePool_retraced {s v : State} (h : freePool s = .next v) (tr : List Access) (w : Option HalfWrite) :
    freePool (s.retraced tr w) = .next (v.retraced tr w) := by
  obtain ⟨hsafe, ⟨hnone, rfl⟩ | ⟨hsome, rfl⟩⟩ := freePool_eq_next.1 h
  · exact freePool_eq_next.2 ⟨hsafe, .inl ⟨hnone, rfl⟩⟩
  · exact freePool_eq_next.2 ⟨hsafe, .inr ⟨hsome, rfl⟩⟩

/-- What is left of a `TEARDOWN` after its stops sees nothing of the trace and of half an operation, and writes the clock
bits (42_timing_and_bringup R158). -/
theorem teardownRest_retraced {s u : State} (h : teardownRest s = .next u) (tr : List Access)
    (w : Option HalfWrite) :
    ∃ as, teardownRest (s.retraced tr w) = .next (u.retraced (tr ++ as) w) ∧
      fieldsWritten as = [.clkDma, .clkTcon] := by
  obtain ⟨v, hfree, rfl⟩ := teardownRest_eq_next.1 h
  have freed := freePool_retraced hfree (tr ++ [.armedSet none, .slotTake s.pool.pendingNext]) w
  obtain ⟨as, hclocks, hwritten⟩ := regWrites_retraced [(.clkDma, 0), (.clkTcon, 0)] v
    (tr ++ [.armedSet none, .slotTake s.pool.pendingNext]) w
  refine ⟨[.armedSet none, .slotTake s.pool.pendingNext] ++ as, teardownRest_eq_next.2 ⟨_, freed, ?_⟩, ?_⟩
  · rw [hclocks, List.append_assoc]
    rfl
  · rw [fieldsWritten_append, hwritten]
    rfl

/-- A torn `TEARDOWN` ends where a whole one ends, but for the trace and the half that is done (R53 (d), R158). -/
theorem finishTorn_of_teardown {s u : State} {r : Word} {ch : Channel} (hc : s.chans[0]? = some ch)
    (h : execTeardown s = .next u) :
    ∃ w as, clearedWithin (RegMap.locate s.cfg.regmap (.enable 0)).bits r w ∧
      fieldsWritten as = (List.range' 1 (s.chans.length - 1)).map RegField.enable ++ [.clkDma, .clkTcon] ∧
      finishTorn ⟨.teardown, r⟩ s = .next
        (u.retraced (s.trace ++ .write (RegMap.locate s.cfg.regmap (.enable 0)).addr (.enable 0) w :: as) none) := by
  obtain ⟨hx, -⟩ := processOnly_eq_next.1 h
  rw [execTeardown_eq hx hc] at h
  obtain ⟨v, hstop, hrest⟩ := andThen_eq_next.1 h
  obtain ⟨w, hw⟩ : ∃ w, w = insertBits (RegMap.locate s.cfg.regmap (.enable 0)).bits 0 r := ⟨_, rfl⟩
  obtain ⟨as, hothers, hstops⟩ := stopAll_retraced hstop
    (s.trace ++ [.write (RegMap.locate s.cfg.regmap (.enable 0)).addr (.enable 0) w]) none
  obtain ⟨bs, hend, hclocks⟩ := teardownRest_retraced hrest
    (s.trace ++ [.write (RegMap.locate s.cfg.regmap (.enable 0)).addr (.enable 0) w] ++ as) none
  have torn : writeHalf ⟨.teardown, r⟩ s = (regWrite (.enable 0) 0 s).retraced
      (s.trace ++ [.write (RegMap.locate s.cfg.regmap (.enable 0)).addr (.enable 0) w]) none := hw ▸ rfl
  refine ⟨w, as ++ bs, hw ▸ clearedWithin_insertBits _ _, by rw [fieldsWritten_append, hstops, hclocks], ?_⟩
  rw [finishTorn_teardown rfl, torn, hothers, andThen_next, hend]
  simp only [List.append_assoc, List.cons_append, List.nil_append]

/-- Settles O57: `Disciplined.exec` is the first clause; the halves are `readHalf`, `writeHalf_of` and, for a `TEARDOWN`,
`finishTorn_of_teardown`. -/
theorem registersAreReadModifyWritten : Obligations.RegistersAreReadModifyWritten := by
  refine ⟨fun s t i h => ?_, ?_, ?_, ?_, ?_⟩
  · obtain ⟨-, hother, htrace⟩ := Disciplined.exec h
    exact ⟨hother, htrace⟩
  · rintro s c ch _ hx hc rfl
    have stopped : exec (.dmaStop c) s = .next ((regWrite (.enable c) 0 s).setRet .void) :=
      (processOnly_of hx _).trans (congrArg (returning .void) (withChan_of hc _))
    exact ⟨_, _, stopped, regWrite_trace s (.enable c) 0, clearedWithin_insertBits _ _⟩
  · rintro s op c _ f rest ch hcfg hi hx hfree hc rfl hcase
    obtain ⟨rfl, rfl⟩ : op.field = f ∧ op.channel = c := by
      obtain ⟨rfl, rfl⟩ | ⟨rfl, rfl⟩ | ⟨rfl, rfl, rfl⟩ := hcase
      · exact ⟨rfl, rfl⟩
      · exact ⟨rfl, rfl⟩
      · exact ⟨rfl, rfl⟩
    have begun : beginTorn op { s with inbox := rest } = .next (readHalf op { s with inbox := rest }) :=
      beginTorn_eq_next.2 ⟨hx, ⟨ch, hc⟩, rfl⟩
    exact (step_event hcfg hi).trans ((whenFree_of hfree _).trans begun)
  · rintro s op c _ f r ch ch' henc hpub hhalf hc rfl hcase
    have hop : op ≠ .teardown := by
      obtain ⟨rfl, -⟩ | ⟨rfl, -⟩ := hcase <;> nofun
    have field : op.field = f ∧ ((f = .enable c ∧ ch' = { ch with enable := false }) ∨
        (f = .status c ∧ ch' = { ch with irqPending := false })) := by
      obtain ⟨rfl, rfl, hch⟩ | ⟨rfl, rfl, hch⟩ := hcase
      · exact ⟨rfl, .inl ⟨rfl, hch⟩⟩
      · exact ⟨rfl, .inr ⟨rfl, hch⟩⟩
    obtain ⟨rfl, hchange⟩ := field
    obtain ⟨w, hw, heq⟩ := writeHalf_of (h := ⟨op, r⟩) hc hchange
    refine ⟨w, hw, ?_⟩
    rw [producerWork_half henc hpub hhalf, finishTorn_of hop, heq]
    rfl
  · rintro s u _ r ch henc hpub hhalf hc rfl h
    obtain ⟨w, as, hw, hwritten, heq⟩ := finishTorn_of_teardown (r := r) hc h
    exact ⟨w, as, hw, hwritten, (producerWork_half henc hpub hhalf).trans heq⟩

end Sys2Proof.Machine
end

section
/-! PROOFS of the statements of 30_encoding: the words, bit by bit along the pin map, and the decoder against the
encoder. -/

namespace Sys2Proof

/-! ### The positions of a word -/

/-- A position of a word lies in field A, in field B, is the strobe or the marker, or is none of these (R81). -/
theorem position_cases (c : Config) (p : Nat) :
    (∃ n < 8, p = c.aLsb + n) ∨ (∃ n < 8, p = c.bLsb + n) ∨ p = c.strobePos ∨ p = c.dcPos ∨
      ¬ NamedPosition c p := by
  by_cases ha : c.aLsb ≤ p ∧ p ≤ c.aLsb + 7
  · exact .inl ⟨p - c.aLsb, by omega, by omega⟩
  · by_cases hb : c.bLsb ≤ p ∧ p ≤ c.bLsb + 7
    · exact .inr (.inl ⟨p - c.bLsb, by omega, by omega⟩)
    · unfold NamedPosition
      omega

theorem namedPosition_fieldA (c : Config) {n : Nat} (hn : n < 8) : NamedPosition c (c.aLsb + n) :=
  .inl ⟨by omega, by omega⟩

theorem namedPosition_fieldB (c : Config) {n : Nat} (hn : n < 8) : NamedPosition c (c.bLsb + n) :=
  .inr (.inl ⟨by omega, by omega⟩)

theorem namedPosition_strobe (c : Config) : NamedPosition c c.strobePos := .inr (.inr (.inl rfl))

theorem namedPosition_marker (c : Config) : NamedPosition c c.dcPos := .inr (.inr (.inr rfl))

/-! ### The spread of a value (R88) -/

theorem spread_fieldA {c : Config} (h : PinMapFacts c) (v : Pixel) {n : Nat} (hn : n < 8) :
    (spread c v).getLsbD (c.aLsb + n) = v.getLsbD n := by
  have ha := h.aRange
  have hab := h.ab
  have notB : ¬ (c.bLsb ≤ c.aLsb + n ∧ c.aLsb + n < c.bLsb + 8) := by omega
  rw [spread_getLsbD c v _ (by omega)]
  simp [notB, hn]

theorem spread_fieldB {c : Config} (h : PinMapFacts c) (v : Pixel) {n : Nat} (hn : n < 8) :
    (spread c v).getLsbD (c.bLsb + n) = v.getLsbD (8 + n) := by
  have hb := h.bRange
  have hab := h.ab
  have notA : ¬ (c.aLsb ≤ c.bLsb + n ∧ c.bLsb + n < c.aLsb + 8) := by omega
  rw [spread_getLsbD c v _ (by omega)]
  simp [notA, hn]

theorem spread_outside (c : Config) (v : Pixel) {i : Nat} (hA : i < c.aLsb ∨ c.aLsb + 8 ≤ i)
    (hB : i < c.bLsb ∨ c.bLsb + 8 ≤ i) : (spread c v).getLsbD i = false := by
  have notA : ¬ (c.aLsb ≤ i ∧ i < c.aLsb + 8) := by omega
  have notB : ¬ (c.bLsb ≤ i ∧ i < c.bLsb + 8) := by omega
  by_cases hi : i < 32
  · rw [spread_getLsbD c v i hi]
    simp [notA, notB]
  · exact BitVec.getLsbD_of_ge _ _ (by omega)

/-! ### The word of a marker, a strobe and a value (R84, R85, R110) -/

/-- The word of the marker `dc`, the strobe `st` and the value `v`: `BASE` with the three in their places (R110). -/
def wordOf (c : Config) (dc st : Bool) (v : Pixel) : Word :=
  c.base ||| spread c v ||| ((BitVec.ofBool dc).setWidth 32 <<< c.dcPos) |||
    ((BitVec.ofBool st).setWidth 32 <<< c.strobePos)

theorem encWord_eq_wordOf (c : Config) (dc : Bool) (v : Pixel) :
    encWord c dc v = (wordOf c dc false v, wordOf c dc true v) := by
  simp [encWord, wordOf, strobeMask]

theorem wordOf_getLsbD (c : Config) (dc st : Bool) (v : Pixel) {i : Nat} (hi : i < 32) :
    (wordOf c dc st v).getLsbD i = (c.base.getLsbD i || (spread c v).getLsbD i || (decide (i = c.dcPos) && dc) ||
      (decide (i = c.strobePos) && st)) := by
  simp only [wordOf, BitVec.getLsbD_or, ofBool_getLsbD, hi, decide_true, Bool.true_and]

theorem wordOf_fieldA {c : Config} (h : PinMapFacts c) (dc st : Bool) (v : Pixel) {n : Nat} (hn : n < 8) :
    (wordOf c dc st v).getLsbD (c.aLsb + n) = v.getLsbD n := by
  obtain ⟨hi, hbase⟩ := h.named (namedPosition_fieldA c hn)
  have hs : ¬ c.aLsb + n = c.strobePos := by have := h.sa; omega
  have hd : ¬ c.aLsb + n = c.dcPos := by have := h.da; omega
  simp [wordOf_getLsbD c dc st v (Nat.lt_succ_of_le hi), hbase, spread_fieldA h v hn, hs, hd]

theorem wordOf_fieldB {c : Config} (h : PinMapFacts c) (dc st : Bool) (v : Pixel) {n : Nat} (hn : n < 8) :
    (wordOf c dc st v).getLsbD (c.bLsb + n) = v.getLsbD (8 + n) := by
  obtain ⟨hi, hbase⟩ := h.named (namedPosition_fieldB c hn)
  have hs : ¬ c.bLsb + n = c.strobePos := by have := h.sb; omega
  have hd : ¬ c.bLsb + n = c.dcPos := by have := h.db; omega
  simp [wordOf_getLsbD c dc st v (Nat.lt_succ_of_le hi), hbase, spread_fieldB h v hn, hs, hd]

theorem strobeBit_wordOf {c : Config} (h : PinMapFacts c) (dc st : Bool) (v : Pixel) :
    strobeBit c (wordOf c dc st v) = st := by
  obtain ⟨-, hbase⟩ := h.named (namedPosition_strobe c)
  simp [strobeBit, wordOf_getLsbD c dc st v h.sRange, hbase, spread_outside c v h.sa h.sb, h.sd]

theorem markerBit_wordOf {c : Config} (h : PinMapFacts c) (dc st : Bool) (v : Pixel) :
    markerBit c (wordOf c dc st v) = dc := by
  obtain ⟨-, hbase⟩ := h.named (namedPosition_marker c)
  simp [markerBit, wordOf_getLsbD c dc st v h.dRange, hbase, spread_outside c v h.da h.db, h.sd.symm]

theorem wordOf_outside {c : Config} (dc st : Bool) (v : Pixel) {i : Nat} (hi : i < 32) (hn : ¬ NamedPosition c i) :
    (wordOf c dc st v).getLsbD i = c.base.getLsbD i := by
  unfold NamedPosition at hn
  have hs : ¬ i = c.strobePos := by omega
  have hd : ¬ i = c.dcPos := by omega
  simp [wordOf_getLsbD c dc st v hi, spread_outside c v (i := i) (by omega) (by omega), hs, hd]

theorem unspread_wordOf {c : Config} (h : PinMapFacts c) (dc st : Bool) (v : Pixel) :
    unspread c (wordOf c dc st v) = v := by
  apply BitVec.eq_of_getLsbD_eq
  intro i hi
  rw [unspread_getLsbD c _ i hi]
  split
  · next low => exact wordOf_fieldA h dc st v low
  · next high => rw [wordOf_fieldB h dc st v (by omega), Nat.add_sub_cancel' (by omega)]

/-- A word is canonical when it is `BASE` at every position that is not named (R92). -/
theorem canonical_iff {c : Config} (h : PinMapFacts c) (w : Word) :
    canonical c w = true ↔ ∀ i < 32, ¬ NamedPosition c i → w.getLsbD i = c.base.getLsbD i := by
  have remainder {i : Nat} (hi : i < 32) :
      (w &&& ~~~fieldMask c).getLsbD i = (w.getLsbD i && !(fieldMask c).getLsbD i) := by
    rw [BitVec.getLsbD_and, BitVec.getLsbD_not, decide_eq_true hi, Bool.true_and]
  have unnamed {i : Nat} (hi : i < 32) (hn : ¬ NamedPosition c i) : (fieldMask c).getLsbD i = false := by
    rwa [← Bool.not_eq_true, fieldMask_getLsbD_iff c hi]
  rw [canonical, decide_eq_true_eq]
  constructor
  · intro hw i hi hn
    rw [← hw, remainder hi, unnamed hi hn, Bool.not_false, Bool.and_true]
  · intro hw
    apply BitVec.eq_of_getLsbD_eq
    intro i hi
    rw [remainder hi]
    by_cases hn : NamedPosition c i
    · rw [(fieldMask_getLsbD_iff c hi).2 hn, (h.named hn).2, Bool.not_true, Bool.and_false]
    · rw [unnamed hi hn, hw i hi hn, Bool.not_false, Bool.and_true]

theorem canonical_wordOf {c : Config} (h : PinMapFacts c) (dc st : Bool) (v : Pixel) :
    canonical c (wordOf c dc st v) = true :=
  (canonical_iff h _).2 fun _ hi hn => wordOf_outside dc st v hi hn

/-- A canonical word is determined by its marker, strobe and value: position by position (R89, R92). -/
theorem wordOf_of_canonical {c : Config} (h : PinMapFacts c) {w : Word} (hw : canonical c w = true) :
    wordOf c (markerBit c w) (strobeBit c w) (unspread c w) = w := by
  apply BitVec.eq_of_getLsbD_eq
  intro i hi
  obtain ⟨n, hn, rfl⟩ | ⟨n, hn, rfl⟩ | rfl | rfl | hn := position_cases c i
  · rw [wordOf_fieldA h _ _ _ hn, unspread_getLsbD c w n (by omega), if_pos hn]
  · rw [wordOf_fieldB h _ _ _ hn, unspread_getLsbD c w _ (by omega), if_neg (by omega), Nat.add_sub_cancel_left]
  · exact strobeBit_wordOf h _ _ _
  · exact markerBit_wordOf h _ _ _
  · rw [wordOf_outside _ _ _ hi hn, (canonical_iff h w).1 hw i hi hn]

/-! ### The word instructions -/

/-- The kind of word that a marker and a strobe name (R90). -/
def wordKind : Bool → Bool → WordKind
  | false, false => .cmdLo
  | false, true => .cmdHi
  | true, false => .datLo
  | true, true => .datHi

theorem kindOf_eq_wordKind (c : Config) (w : Word) : kindOf c w = wordKind (markerBit c w) (strobeBit c w) := by
  unfold kindOf
  cases markerBit c w <;> cases strobeBit c w <;> rfl

theorem kindOf_wordOf {c : Config} (h : PinMapFacts c) (dc st : Bool) (v : Pixel) :
    kindOf c (wordOf c dc st v) = wordKind dc st := by
  rw [kindOf_eq_wordKind, markerBit_wordOf h, strobeBit_wordOf h]

/-- The word instruction of a marker, a strobe and a value (R90). -/
def wordInstr : Bool → Bool → Pixel → Instr
  | false, false => .cmdLo
  | false, true => .cmdHi
  | true, false => .datLo
  | true, true => .datHi

theorem encodeWord_wordInstr (c : Config) (dc st : Bool) (v : Pixel) :
    encodeWord c (wordInstr dc st v) = some (wordOf c dc st v) := by
  cases dc <;> cases st <;> simp [wordInstr, encodeWord, encWord_eq_wordOf]

theorem eq_wordInstr_of_encodeWord {c : Config} {i : Instr} {w : Word} (h : encodeWord c i = some w) :
    ∃ dc st v, i = wordInstr dc st v := by
  cases i with
  | cmdLo v => exact ⟨false, false, v, rfl⟩
  | cmdHi v => exact ⟨false, true, v, rfl⟩
  | datLo v => exact ⟨true, false, v, rfl⟩
  | datHi v => exact ⟨true, true, v, rfl⟩
  | _ => nomatch h

theorem decodeWord_eq_ok {c : Config} {w : Word} {i : Instr} :
    decodeWord c w = .ok i ↔
      canonical c w = true ∧ i = wordInstr (markerBit c w) (strobeBit c w) (unspread c w) := by
  unfold decodeWord
  rw [kindOf_eq_wordKind]
  cases canonical c w with
  | false => simp
  | true => cases markerBit c w <;> cases strobeBit c w <;> simp [wordKind, wordInstr, eq_comm]

theorem decodeWord_wordOf {c : Config} (h : PinMapFacts c) (dc st : Bool) (v : Pixel) :
    decodeWord c (wordOf c dc st v) = .ok (wordInstr dc st v) := by
  rw [decodeWord_eq_ok, markerBit_wordOf h, strobeBit_wordOf h, unspread_wordOf h]
  exact ⟨canonical_wordOf h dc st v, rfl⟩

theorem decode_word_eq_ok {c : Config} {w : Word} {i : Instr} {tail : List Byte} :
    decode c (.word w) = .ok (i, tail) ↔ decodeWord c w = .ok i ∧ tail = [] := by
  rw [decode]
  cases decodeWord c w <;> simp [Except.map, eq_comm]

theorem encode_of_encodeWord {c : Config} {i : Instr} {w : Word} (h : encodeWord c i = some w) :
    encode c i = .word w := by
  simp only [encode, h]

/-! ### The operations -/

theorem takeIndex_giveIndex (tag : Byte) (f : Nat → Instr) {k : Nat} (hk : indexFits k = true) (rest : List Byte) :
    takeIndex tag f ([giveIndex k] ++ rest) = .ok (f k, rest) := by
  simp only [List.singleton_append, takeIndex, giveIndex_toNat hk]

theorem takeIndex2_giveIndex (tag : Byte) (f : Nat → Nat → Instr) {k l : Nat}
    (hkl : (indexFits k && indexFits l) = true) (rest : List Byte) :
    takeIndex2 tag f ([giveIndex k, giveIndex l] ++ rest) = .ok (f k l, rest) := by
  obtain ⟨hk, hl⟩ := Bool.and_eq_true_iff.1 hkl
  simp only [List.cons_append, List.nil_append, takeIndex2, giveIndex_toNat hk, giveIndex_toNat hl]

/-- The operand bytes of a well-formed operation are read back, whatever follows them. -/
theorem decodeOperands_encodeOperands {i : Instr} {tag : Byte} (hwf : i.wf = true) (htag : opsel i = some tag)
    (rest : List Byte) : decodeOperands tag (encodeOperands i ++ rest) = .ok (i, rest) := by
  cases i with
  | cmdLo | cmdHi | datLo | datHi => nomatch htag
  | encCmd | brgClocks | brgPins | teardown | poolAlloc | poolFree | queryInflight =>
    cases htag
    rfl
  | tconCfg t =>
    cases htag
    cases t
    rfl
  | brgInit items =>
    cases htag
    cases items
    rfl
  | encPix p =>
    cases htag
    simp [decodeOperands, encodeOperands, take2_give2]
  | decWord w =>
    cases htag
    simp [decodeOperands, encodeOperands, take4_give4]
  | emitPair lo hi =>
    cases htag
    simp [decodeOperands, encodeOperands, take4_give4]
  | encFrame | poolBuf | dmaStart | dmaStop | dmaAck | dmaXfer | publishNext | irqFrame =>
    cases htag
    exact takeIndex_giveIndex 0 _ hwf rest
  | brgArm | dmaConfigure | dmaRearm =>
    cases htag
    exact takeIndex2_giveIndex 0 _ hwf rest

theorem encode_of_opsel (c : Config) {i : Instr} {tag : Byte} (h : opsel i = some tag) :
    encode c i = .bytes (tag :: encodeOperands i) := by
  cases i with
  | cmdLo | cmdHi | datLo | datHi => nomatch h
  | _ =>
    cases h
    rfl

theorem encodeWord_or_opsel (c : Config) (i : Instr) : (encodeWord c i).isSome = true ∨ (opsel i).isSome = true := by
  cases i with
  | cmdLo | cmdHi | datLo | datHi => exact .inl rfl
  | _ => exact .inr rfl

/-- Settles O58: a word is `wordOf` its fields, both ways; an operation's operand bytes are read back. -/
theorem decodeEncodeAgree : Obligations.DecodeEncodeAgree := by
  intro c hc
  have h := (pinMapOk_iff c).1 hc
  refine ⟨fun i w hw => ?_, fun i tag hwf htag => ?_, encodeWord_or_opsel c, fun w i tail hw => ?_⟩
  · obtain ⟨dc, st, v, rfl⟩ := eq_wordInstr_of_encodeWord hw
    obtain rfl : wordOf c dc st v = w := Option.some.inj ((encodeWord_wordInstr c dc st v).symm.trans hw)
    exact ⟨encode_of_encodeWord hw, decode_word_eq_ok.2 ⟨decodeWord_wordOf h dc st v, rfl⟩⟩
  · exact ⟨encode_of_opsel c htag, fun rest => decodeOperands_encodeOperands hwf htag rest⟩
  · obtain ⟨hdec, rfl⟩ := decode_word_eq_ok.1 hw
    obtain ⟨hcan, rfl⟩ := decodeWord_eq_ok.1 hdec
    refine ⟨encode_of_encodeWord ?_, rfl⟩
    rw [encodeWord_wordInstr, wordOf_of_canonical h hcan]

/-! ### The colours, and the spread of the reference binding -/

/-- A value is its three colour fields, red over green over blue (R82, R86). -/
theorem toNat_eq_colours (v : Pixel) :
    v.toNat = (colour red v).toNat * 2 ^ 11 + (colour green v).toNat * 2 ^ 5 + (colour blue v).toNat := by
  have hv : v.toNat < 2 ^ 16 := v.isLt
  simp only [colour, red, green, blue, BitVec.extractLsb'_toNat, Nat.shiftRight_eq_div_pow]
  omega

/-- Bit `n` of a colour field is bit `offset + n` of the value. -/
theorem colour_getLsbD (f : ColourField) (v : Pixel) {n : Nat} (hn : n < f.length) :
    (colour f v).getLsbD n = v.getLsbD (f.offset + n) := by
  simp [colour, hn]

/-- A byte of a value put back in its place is the value under the mask of that place. -/
theorem extractByte_shiftLeft (v : Pixel) (n : Nat) :
    (v.extractLsb' n 8).setWidth 32 <<< n = v.setWidth 32 &&& (0xFF#32 <<< n) := by
  apply BitVec.eq_of_getLsbD_eq
  intro i hi
  rw [BitVec.getLsbD_and, byteMask_getLsbD, BitVec.getLsbD_shiftLeft, BitVec.getLsbD_setWidth,
    BitVec.getLsbD_setWidth, BitVec.getLsbD_extractLsb']
  by_cases hin : n ≤ i ∧ i < n + 8
  · obtain ⟨hle, hlt⟩ := hin
    have h32 : i - n < 32 := by omega
    have h8 : i - n < 8 := by omega
    simp [hi, hle, hlt, h32, h8, Nat.not_lt.2 hle]
  · have hout : i < n ∨ ¬ i - n < 8 ∧ ¬ i < n + 8 := by omega
    obtain hlt | ⟨h8, hge⟩ := hout
    · simp [hlt]
    · simp [h8, hge]

/-- The two masked shifts of R88 are the spread of the reference binding. -/
theorem spread_reference (v : Pixel) :
    spread Config.reference v =
      ((v.setWidth 32 &&& 0x00FF#32) <<< 1) ||| ((v.setWidth 32 &&& 0xFF00#32) <<< 2) := by
  have low : (v.extractLsb' 0 8).setWidth 32 = v.setWidth 32 &&& 0x00FF#32 := by
    simpa using extractByte_shiftLeft v 0
  have high : (v.extractLsb' 8 8).setWidth 32 <<< 8 = v.setWidth 32 &&& 0xFF00#32 := extractByte_shiftLeft v 8
  rw [← low, ← high, ← BitVec.shiftLeft_add]
  rfl

/-- The spread of the reference binding lies in fields A and B, the mask `0x0003FDFE` of R88. -/
theorem spread_reference_and_not_fields (v : Pixel) : spread Config.reference v &&& ~~~0x0003FDFE#32 = 0 := by
  have mask : ∀ i < 32, (1 ≤ i ∧ i < 9) ∨ (10 ≤ i ∧ i < 18) → (0x0003FDFE#32).getLsbD i = true := by decide
  apply BitVec.eq_of_getLsbD_eq
  intro i hi
  rw [BitVec.getLsbD_and, BitVec.getLsbD_not, decide_eq_true hi, Bool.true_and]
  by_cases inField : (1 ≤ i ∧ i < 9) ∨ (10 ≤ i ∧ i < 18)
  · simp [mask i hi inField]
  · have outsideA : i < 1 ∨ 9 ≤ i := by omega
    have outsideB : i < 10 ∨ 18 ≤ i := by omega
    rw [spread_outside Config.reference v outsideA outsideB]
    simp

/-- Settles O1: `spread_fieldA`, `spread_fieldB` and `spread_outside` are the clauses bit by bit; the colours are
read off these by their offsets. -/
theorem spreadPlacesEachByteInItsField : Obligations.SpreadPlacesEachByteInItsField := by
  intro c v hc
  have h := (pinMapOk_iff c).1 hc
  have low {n : Nat} (hn : n < 8) := spread_fieldA h v hn
  have high {n : Nat} (hn : n < 8) := spread_fieldB h v hn
  refine ⟨rfl, fun n => low, fun n => high, fun i => spread_outside c v, spread_reference v,
    spread_reference_and_not_fields v, toNat_eq_colours v, fun n hn => ⟨?_, ?_⟩, fun n hn => ⟨?_, ?_⟩⟩
  · rw [low (by omega), colour_getLsbD blue v hn]
    simp [blue]
  · rw [Nat.add_assoc, high (by omega), colour_getLsbD red v hn, ← Nat.add_assoc]
    rfl
  · rw [Nat.add_assoc, low (by omega), colour_getLsbD green v (Nat.lt_of_lt_of_le hn (by decide))]
    rfl
  · rw [high (by omega), colour_getLsbD green v (by simp only [green]; omega), ← Nat.add_assoc]
    rfl

/-- Settles O2: the word is `wordOf` its marker, strobe and value. -/
theorem unspreadRecoversTheValue : Obligations.UnspreadRecoversTheValue := by
  intro c hc
  refine ⟨fun w => ⟨?_, ?_⟩, fun v dc st => unspread_wordOf ((pinMapOk_iff c).1 hc) dc st v⟩
  · exact BitVec.extractLsb'_append_eq_left
  · exact BitVec.extractLsb'_append_eq_right

/-! ### The words of a pair and of a frame -/

/-- Settles O7: both words of a pair are `wordOf` their marker, strobe and value. -/
theorem encodedWordsAreCanonical : Obligations.EncodedWordsAreCanonical := by
  intro c v hc
  have h := (pinMapOk_iff c).1 hc
  simp only [encWord_eq_wordOf]
  exact ⟨fun dc => ⟨canonical_wordOf h .., canonical_wordOf h ..⟩, kindOf_wordOf h .., kindOf_wordOf h ..,
    kindOf_wordOf h .., kindOf_wordOf h ..⟩

/-- Word `j` of a frame has the strobe at odd places and the marker from word 2 on (R94). -/
theorem frameWord_eq_wordOf (c : Config) (P : Nat → Pixel) (j : Nat) :
    ∃ v, frameWord c P j = wordOf c (decide (2 ≤ j)) (decide (j % 2 = 1)) v := by
  have half (dc : Bool) (v : Pixel) :
      (if j % 2 = 0 then wordOf c dc false v else wordOf c dc true v) = wordOf c dc (decide (j % 2 = 1)) v := by
    obtain even | odd := Nat.mod_two_eq_zero_or_one j
    · simp [even]
    · simp [odd]
  obtain head | tail := Nat.lt_or_ge j 2
  · rw [decide_eq_false (Nat.not_le.2 head)]
    exact ⟨cmdValue c.cmdWritePixels, by simp only [frameWord, encWord_eq_wordOf, if_pos head, half]⟩
  · rw [decide_eq_true tail]
    exact ⟨P ((j - 2) / 2), by simp only [frameWord, encWord_eq_wordOf, if_neg (Nat.not_lt.2 tail), half]⟩

/-- Settles O8: `frameWord_eq_wordOf` for each word, `frameWord_command` and `frameWord_pixel` for the pairs. -/
theorem frameGrammar : Obligations.FrameGrammar := by
  intro c P hc
  have h := (pinMapOk_iff c).1 hc
  refine ⟨by decide, ?_, fun i _ => ?_, fun j _ => ?_, fun j _ => ?_, fun j _ => ?_⟩
  · obtain ⟨hlo, hhi⟩ := frameWord_command c P
    rw [hlo, hhi]
  · obtain ⟨hlo, hhi⟩ := frameWord_pixel c P i
    rw [hlo, hhi]
  all_goals obtain ⟨v, hv⟩ := frameWord_eq_wordOf c P j
  · rw [hv, strobeBit_wordOf h]
  · rw [hv, markerBit_wordOf h]
  · rw [hv, canonical_wordOf h]

/-! ### The tables -/

/-- Settles O59: the written-out codes are evaluated; the tag of each of the 23 rows of `decodeOperands` is listed. -/
theorem tableWordsDecode : Obligations.TableWordsDecode := by
  refine ⟨rfl, rfl, rfl, rfl, rfl, rfl, rfl, rfl, fun tag bs unlisted => ?_⟩
  show decodeOperands tag bs = _
  unfold decodeOperands
  split
  case h_24 => rfl
  all_goals
    next h => exact absurd (by rw [h]; decide) unlisted

end Sys2Proof
end

section
/-! PROOFS of the statements of 40_word_ops: the words of a pair, what the word functions return, and what the panel
latches of a word, of a pair and of a sequence of pairs. -/

namespace Sys2Proof

/-! ### The words of a pair (R93, R112, R120) -/

/-- What `DEC_WORD` reads of a word is what was put into it (R115). -/
theorem decodeFields_wordOf {c : Config} (h : PinMapFacts c) (dc st : Bool) (v : Pixel) :
    decodeFields c (wordOf c dc st v) = (dc, st, v) := by
  rw [decodeFields, markerBit_wordOf h, strobeBit_wordOf h, unspread_wordOf h]

/-- The strobe-high word is the strobe-low one with the strobe bit set (R110). -/
theorem wordOf_true (c : Config) (dc : Bool) (v : Pixel) :
    wordOf c dc true v = wordOf c dc false v ||| strobeMask c := by
  simp [wordOf, strobeMask]

/-- The strobe is 0 in the strobe-low word, so setting it and comparing leaves the strobe bit alone (R112). -/
theorem wordOf_xor_eq_strobeMask {c : Config} (h : PinMapFacts c) (dc : Bool) (v : Pixel) :
    wordOf c dc true v ^^^ wordOf c dc false v = strobeMask c := by
  have low : (wordOf c dc false v).getLsbD c.strobePos = false := strobeBit_wordOf h dc false v
  apply BitVec.eq_of_getLsbD_eq
  intro i hi
  rw [wordOf_true, BitVec.getLsbD_xor, BitVec.getLsbD_or, strobeMask, oneBit_getLsbD, decide_eq_true hi, Bool.true_and]
  by_cases hs : i = c.strobePos
  · rw [hs, low]
    simp
  · simp [hs]

theorem isPair_iff {c : Config} {lo hi : Word} :
    isPair c lo hi = true ↔ strobeBit c lo = false ∧ strobeBit c hi = true ∧ hi = lo ||| strobeMask c := by
  simp [isPair, and_assoc]

theorem isPair_wordOf {c : Config} (h : PinMapFacts c) (dc : Bool) (v : Pixel) :
    isPair c (wordOf c dc false v) (wordOf c dc true v) = true :=
  isPair_iff.2 ⟨strobeBit_wordOf h .., strobeBit_wordOf h .., wordOf_true c dc v⟩

/-- A pair whose first word is canonical is the encoding of that word's marker and value (R92, R93). -/
theorem eq_wordOf_of_isPair {c : Config} (h : PinMapFacts c) {lo hi : Word} (hp : isPair c lo hi = true)
    (hlo : canonical c lo = true) :
    lo = wordOf c (markerBit c lo) false (unspread c lo) ∧ hi = wordOf c (markerBit c lo) true (unspread c lo) := by
  obtain ⟨strobe, -, rfl⟩ := isPair_iff.1 hp
  have low : wordOf c (markerBit c lo) false (unspread c lo) = lo := by
    rw [← strobe, wordOf_of_canonical h hlo]
  exact ⟨low.symm, by rw [wordOf_true, low]⟩

/-- Settles O3: the two words are `wordOf` the strobe 0 and the strobe 1. -/
theorem pairLaw : Obligations.PairLaw := by
  intro c dc v hc
  have h := (pinMapOk_iff c).1 hc
  rw [encWord_eq_wordOf]
  exact ⟨strobeBit_wordOf h .., strobeBit_wordOf h .., wordOf_xor_eq_strobeMask h dc v, markerBit_wordOf h ..,
    markerBit_wordOf h .., unspread_wordOf h .., unspread_wordOf h .., isPair_wordOf h dc v⟩

/-- The marker and the value are read back from the word, so equal words have equal ones. -/
theorem wordOf_injective {c : Config} (h : PinMapFacts c) {dc dc' st : Bool} {v v' : Pixel}
    (heq : wordOf c dc st v = wordOf c dc' st v') : dc = dc' ∧ v = v' := by
  have fields := congrArg (decodeFields c) heq
  simpa [decodeFields_wordOf h] using fields

/-- Settles O5: `wordOf_injective` at the strobe 0 and at the strobe 1. -/
theorem wordEncodingIsInjective : Obligations.WordEncodingIsInjective := by
  intro c hc dc dc' v v'
  have h := (pinMapOk_iff c).1 hc
  rw [encWord_eq_wordOf, encWord_eq_wordOf]
  exact ⟨wordOf_injective h, wordOf_injective h⟩

/-! ### The words of a command byte and of a pixel, written out (R111, R113) -/

/-- A command byte is a value with its high byte 0 (R101), so it fills field A alone. -/
theorem spread_cmdValue (c : Config) (b : Byte) : spread c (cmdValue b) = b.setWidth 32 <<< c.aLsb := by
  have low : (cmdValue b).extractLsb' 0 8 = b := by
    rw [cmdValue, ← BitVec.setWidth_eq_extractLsb' (by decide), BitVec.setWidth_setWidth_of_le b (by decide),
      BitVec.setWidth_eq]
  have high : (cmdValue b).extractLsb' 8 8 = 0#8 := by
    apply BitVec.eq_of_getLsbD_eq
    intro n hn
    simp [cmdValue]
  rw [spread, low, high]
  simp

theorem encWord_cmdValue (c : Config) (b : Byte) :
    encWord c false (cmdValue b) =
      (c.base ||| (b.setWidth 32 <<< c.aLsb), c.base ||| (b.setWidth 32 <<< c.aLsb) ||| strobeMask c) := by
  simp [encWord, spread_cmdValue]

theorem encWord_pixel (c : Config) (p : Pixel) :
    (encWord c true p).1 = c.base ||| ((p.extractLsb' 0 8).setWidth 32 <<< c.aLsb) |||
      ((p.extractLsb' 8 8).setWidth 32 <<< c.bLsb) ||| (1#32 <<< c.dcPos) := by
  simp [encWord, spread, BitVec.or_assoc]

/-- Field B of a command word is 0 (R101, R111). -/
theorem fieldB_command {c : Config} (h : PinMapFacts c) (st : Bool) (b : Byte) :
    (wordOf c false st (cmdValue b)).extractLsb' c.bLsb 8 = 0 := by
  apply BitVec.eq_of_getLsbD_eq
  intro n hn
  rw [BitVec.getLsbD_extractLsb', wordOf_fieldB h _ _ _ hn]
  simp [cmdValue]

end Sys2Proof

namespace Sys2Proof.Machine

/-! ### The word functions (R111, R113, R114) -/

theorem exec_encCmd (b : Byte) (s : State) :
    exec (.encCmd b) s =
      .next (s.setRet (.pair (encWord s.cfg false (cmdValue b)).1 (encWord s.cfg false (cmdValue b)).2)) := rfl

theorem exec_encPix (p : Pixel) (s : State) :
    exec (.encPix p) s = .next (s.setRet (.pair (encWord s.cfg true p).1 (encWord s.cfg true p).2)) := rfl

theorem exec_decWord (w : Word) (s : State) :
    exec (.decWord w) s = .next (s.setRet (.fields (markerBit s.cfg w) (strobeBit s.cfg w) (unspread s.cfg w))) := rfl

theorem exec_decWord_wordOf {s : State} (h : PinMapFacts s.cfg) (dc st : Bool) (v : Pixel) :
    exec (.decWord (wordOf s.cfg dc st v)) s = .next (s.setRet (.fields dc st v)) := by
  rw [exec_decWord, markerBit_wordOf h, strobeBit_wordOf h, unspread_wordOf h]

/-- Settles O4: `decodeFields_wordOf` for the function, `exec_decWord_wordOf` for the operations. -/
theorem wordRoundTrip : Obligations.WordRoundTrip := by
  refine ⟨fun c dc v hc => ?_, fun s b hc => ?_, fun s p hc => ?_⟩
  · have h := (pinMapOk_iff c).1 hc
    rw [encWord_eq_wordOf]
    exact ⟨decodeFields_wordOf h .., decodeFields_wordOf h ..⟩
  · have h := (pinMapOk_iff s.cfg).1 hc
    have enc := exec_encCmd b s
    rw [encWord_eq_wordOf] at enc
    exact ⟨_, _, enc, exec_decWord_wordOf h .., exec_decWord_wordOf h ..⟩
  · have h := (pinMapOk_iff s.cfg).1 hc
    have enc := exec_encPix p s
    rw [encWord_eq_wordOf] at enc
    exact ⟨_, _, enc, exec_decWord_wordOf h .., exec_decWord_wordOf h ..⟩

/-- Settles O6: the operations are run by their equations, and the words are those of `encWord_cmdValue` and
`encWord_pixel`. -/
theorem wordFunctionsReturn : Obligations.WordFunctionsReturn := by
  refine ⟨fun s b hc => ⟨_, _, exec_encCmd b s, ?_⟩, fun s p => ⟨_, _, exec_encPix p s, encWord_pixel s.cfg p, rfl⟩,
    fun s w => ⟨_, exec_decWord w s, unspread_getLsbD s.cfg w⟩⟩
  have h := (pinMapOk_iff s.cfg).1 hc
  refine ⟨by rw [encWord_cmdValue], rfl, ?_⟩
  rw [encWord_eq_wordOf]
  exact ⟨fieldB_command h false b, markerBit_wordOf h .., markerBit_wordOf h ..⟩

/-! ### One write of `PINDATA` (R118) -/

theorem latchUndetermined_eq_false {w : Word} {s : State}
    (h : s.panel.strobeKnown = true ∨ strobeBit s.cfg w = false) : latchUndetermined w s = false := by
  obtain known | low := h
  · simp [latchUndetermined, known]
  · simp [latchUndetermined, low]

/-- A canonical word is written, when its latch is determined (R92, R272). -/
theorem pinWrite_of {w : Word} {s : State} (hw : canonical s.cfg w = true)
    (h : s.panel.strobeKnown = true ∨ strobeBit s.cfg w = false) : pinWrite w s = .next (pinWritten w s) :=
  pinWrite_eq_next.2 ⟨hw, latchUndetermined_eq_false h, rfl⟩

/-- A write of `PINDATA` is never refused. -/
theorem pinWrite_next_or_fault (w : Word) (s : State) :
    (∃ t, pinWrite w s = .next t) ∨ ∃ r, pinWrite w s = .fault r := by
  unfold pinWrite
  split
  · exact .inr ⟨.nonCanonicalWord, rfl⟩
  · split
    · exact .inr ⟨.strobeUnspecified, rfl⟩
    · exact .inl ⟨pinWritten w s, rfl⟩

/-- In `Data` mode the panel sees the write (R31, R118). -/
theorem pinWritten_panel {s : State} (hm : s.gpio.pinMode = .data) (w : Word) :
    (pinWritten w s).panel = panelSees s.cfg w s.panel := by
  simp only [pinWritten, hm]

/-- The panel latches when the strobe rises, the marker and the value of the word that raised it (R118). -/
theorem panelSees_of_rise {c : Config} {w : Word} {p : Panel} (low : p.strobeSeen = false)
    (high : strobeBit c w = true) : (panelSees c w p).latched = p.latched ++ [⟨markerBit c w, unspread c w⟩] := by
  simp [panelSees, low, high]

/-- Without a rising strobe nothing is latched (R118). -/
theorem panelSees_of_no_rise {c : Config} {w : Word} {p : Panel} (h : p.strobeSeen = true ∨ strobeBit c w = false) :
    (panelSees c w p).latched = p.latched := by
  obtain high | low := h
  · simp [panelSees, high]
  · simp [panelSees, low]

/-- A word instruction is one write of its word (R90, R118). -/
theorem exec_of_encodeWord {i : Instr} {s : State} {w : Word} (h : encodeWord s.cfg i = some w) :
    exec i s = pinWrite w s := by
  cases i with
  | cmdLo | cmdHi | datLo | datHi =>
    cases h
    rfl
  | _ => nomatch h

/-- The word of a word instruction is canonical (R92). -/
theorem canonical_of_encodeWord {c : Config} (h : PinMapFacts c) {i : Instr} {w : Word}
    (hw : encodeWord c i = some w) : canonical c w = true := by
  obtain ⟨dc, st, v, rfl⟩ := eq_wordInstr_of_encodeWord hw
  obtain rfl : wordOf c dc st v = w := Option.some.inj ((encodeWord_wordInstr c dc st v).symm.trans hw)
  exact canonical_wordOf h dc st v

/-- Settles O11: the instruction is one write of its canonical word, and the panel's view is that of `panelSees`. -/
theorem wordLatchesOnRisingStrobe : Obligations.WordLatchesOnRisingStrobe := by
  intro s i w hw hc hm hknown
  have hcan := canonical_of_encodeWord ((pinMapOk_iff s.cfg).1 hc) hw
  refine ⟨pinWritten w s, (exec_of_encodeWord hw).trans (pinWrite_of hcan hknown), pinWritten_pinData w s, ?_⟩
  rw [pinWritten_panel hm]
  exact ⟨rfl, rfl, panelSees_of_rise, panelSees_of_no_rise, rfl, rfl⟩

/-! ### A pair, and a sequence of pairs (R119, R121) -/

/-- The state after `EMIT_PAIR`: both words written, in order (R121). -/
def pairEmitted (lo hi : Word) (s : State) : State := (pinWritten hi (pinWritten lo s)).setRet .void

@[simp] theorem pairEmitted_cfg (lo hi : Word) (s : State) : (pairEmitted lo hi s).cfg = s.cfg := by
  rw [pairEmitted, State.setRet_cfg, pinWritten_cfg, pinWritten_cfg]

@[simp] theorem pairEmitted_pinMode (lo hi : Word) (s : State) :
    (pairEmitted lo hi s).gpio.pinMode = s.gpio.pinMode := by
  rw [pairEmitted, State.setRet_gpio, pinWritten_pinMode, pinWritten_pinMode]

/-- The two register writes are in the trace, with nothing between them (R121). -/
theorem pairEmitted_trace (lo hi : Word) (s : State) :
    (pairEmitted lo hi s).trace = s.trace ++ [.write (RegMap.pinDataAddr s.cfg.regmap) .pinData lo,
      .write (RegMap.pinDataAddr s.cfg.regmap) .pinData hi] :=
  List.append_assoc ..

/-- `EMIT_PAIR` changes `PINDATA`, the panel's view, the trace and the returned value alone. -/
theorem pairEmitted_frame (lo hi : Word) (s : State) :
    { pairEmitted lo hi s with
      gpio := { (pairEmitted lo hi s).gpio with pinData := s.gpio.pinData }, panel := s.panel, trace := s.trace,
      ret := s.ret } = s := by
  unfold pairEmitted pinWritten State.setRet State.log State.setPinData
  rfl

theorem exec_emitPair (lo hi : Word) (s : State) :
    exec (.emitPair lo hi) s = returning .void (emitWords lo hi s) := rfl

/-- The first word of a pair makes the strobe known, so an encoded pair is emitted whatever the strobe was (R119). -/
theorem exec_emitPair_wordOf {s : State} (h : PinMapFacts s.cfg) (hm : s.gpio.pinMode = .data) (dc : Bool)
    (v : Pixel) :
    exec (.emitPair (wordOf s.cfg dc false v) (wordOf s.cfg dc true v)) s =
      .next (pairEmitted (wordOf s.cfg dc false v) (wordOf s.cfg dc true v) s) := by
  have known : (pinWritten (wordOf s.cfg dc false v) s).panel.strobeKnown = true := by
    rw [pinWritten_panel hm]
    rfl
  have low := pinWrite_of (canonical_wordOf h dc false v) (.inr (strobeBit_wordOf h dc false v))
  have high := pinWrite_of (s := pinWritten (wordOf s.cfg dc false v) s) (canonical_wordOf h dc true v) (.inl known)
  rw [exec_emitPair, emitWords_eq_next.2 ⟨isPair_wordOf h dc v, hm, _, low, high⟩]
  rfl

/-- The first word lowers the strobe and the second raises it: one latch, whatever the strobe was (R119). -/
theorem pairEmitted_panel {s : State} (h : PinMapFacts s.cfg) (hm : s.gpio.pinMode = .data) (dc : Bool) (v : Pixel) :
    (pairEmitted (wordOf s.cfg dc false v) (wordOf s.cfg dc true v) s).panel =
      ⟨true, true, s.panel.latched ++ [⟨dc, v⟩]⟩ := by
  have mode := (pinWritten_pinMode (wordOf s.cfg dc false v) s).trans hm
  rw [pairEmitted, State.setRet_panel, pinWritten_panel mode, pinWritten_panel hm, pinWritten_cfg]
  simp [panelSees, strobeBit_wordOf h, markerBit_wordOf h, unspread_wordOf h]

/-- `EMIT_PAIR` is never refused. -/
theorem exec_emitPair_next_or_fault (lo hi : Word) (s : State) :
    (∃ t, exec (.emitPair lo hi) s = .next t) ∨ ∃ r, exec (.emitPair lo hi) s = .fault r := by
  rw [exec_emitPair, emitWords]
  split
  · cases s.gpio.pinMode with
    | signal => exact .inr ⟨.pinsNotData, rfl⟩
    | data =>
      obtain ⟨u, hu⟩ | ⟨r, hr⟩ := pinWrite_next_or_fault lo s
      · obtain ⟨t, ht⟩ | ⟨r, hr⟩ := pinWrite_next_or_fault hi u
        · exact .inl ⟨t.setRet .void, by simp [hu, ht]⟩
        · exact .inr ⟨r, by simp [hu, hr, returning]⟩
      · exact .inr ⟨r, by simp [hr, returning]⟩
  · exact .inr ⟨.notAPair, rfl⟩

/-- What an `EMIT_PAIR` that completes was given: a pair of canonical words, the pins in `Data` mode (R121, R273). -/
theorem emitPair_needs {lo hi : Word} {s t : State} (h : exec (.emitPair lo hi) s = .next t) :
    isPair s.cfg lo hi = true ∧ s.gpio.pinMode = .data ∧ canonical s.cfg lo = true ∧ canonical s.cfg hi = true := by
  obtain ⟨u, hu, -⟩ := returning_eq_next.1 h
  obtain ⟨pair, data, v, hlo, hhi⟩ := emitWords_eq_next.1 hu
  obtain ⟨canLo, -, rfl⟩ := pinWrite_eq_next.1 hlo
  obtain ⟨canHi, -, -⟩ := pinWrite_eq_next.1 hhi
  exact ⟨pair, data, canLo, canHi⟩

/-- Where one of these is missing, `EMIT_PAIR` is a fault (R121, R273). -/
theorem exec_emitPair_fault {lo hi : Word} {s : State}
    (h : ¬ (isPair s.cfg lo hi = true ∧ s.gpio.pinMode = .data ∧ canonical s.cfg lo = true ∧
      canonical s.cfg hi = true)) : ∃ r, exec (.emitPair lo hi) s = .fault r :=
  (exec_emitPair_next_or_fault lo hi s).resolve_left fun ⟨_, ht⟩ => h (emitPair_needs ht)

/-- Settles O9: a canonical pair is an encoded one, whose two writes are `pairEmitted`; the faults are those of
`exec_emitPair_fault`. -/
theorem emitPairWritesAndLatchesOnce : Obligations.EmitPairWritesAndLatchesOnce := by
  intro s lo hi
  refine ⟨fun pair data hc canLo _ => ?_, fun notPair => exec_emitPair_fault fun ⟨pair, _⟩ => ?_,
    fun signal => exec_emitPair_fault fun ⟨_, data, _⟩ => ?_,
    fun notLo => exec_emitPair_fault fun ⟨_, _, canLo, _⟩ => ?_,
    fun notHi => exec_emitPair_fault fun ⟨_, _, _, canHi⟩ => ?_⟩
  · have h := (pinMapOk_iff s.cfg).1 hc
    obtain ⟨hlo, hhi⟩ := eq_wordOf_of_isPair h pair canLo
    have run := exec_emitPair_wordOf h data (markerBit s.cfg lo) (unspread s.cfg lo)
    have panel := pairEmitted_panel h data (markerBit s.cfg lo) (unspread s.cfg lo)
    rw [← hlo, ← hhi] at run panel
    refine ⟨pairEmitted lo hi s, run, rfl, ?_⟩
    rw [panel]
    exact ⟨rfl, rfl, rfl, pairEmitted_trace lo hi s, rfl, pairEmitted_frame lo hi s⟩
  · simp [notPair] at pair
  · simp [signal] at data
  · simp [notLo] at canLo
  · simp [notHi] at canHi

/-- The pairs of `n` values latch these values; after them, unless there are none, the strobe seen is 1 (R119). -/
theorem emitRun_encWord {s : State} (h : PinMapFacts s.cfg) (hm : s.gpio.pinMode = .data) (vs : List (Bool × Pixel)) :
    ∃ t, emitRun (vs.map fun x => encWord s.cfg x.1 x.2) s = .next t ∧
      t.panel.latched = s.panel.latched ++ vs.map (fun x => ⟨x.1, x.2⟩) ∧
      (s.panel.strobeSeen = true ∨ vs ≠ [] → t.panel.strobeSeen = true) := by
  induction vs generalizing s with
  | nil => exact ⟨s, rfl, by simp, by simp⟩
  | cons x vs ih =>
    obtain ⟨dc, v⟩ := x
    have run := exec_emitPair_wordOf h hm dc v
    have panel := pairEmitted_panel h hm dc v
    generalize hu : pairEmitted (wordOf s.cfg dc false v) (wordOf s.cfg dc true v) s = u at run panel
    have cfg : u.cfg = s.cfg := hu ▸ pairEmitted_cfg ..
    have mode : u.gpio.pinMode = .data := (hu ▸ pairEmitted_pinMode ..).trans hm
    obtain ⟨t, rest, latched, strobe⟩ := ih (cfg ▸ h) mode
    rw [cfg] at rest
    refine ⟨t, ?_, ?_, fun _ => strobe (.inl (by rw [panel]))⟩
    · rw [List.map_cons, emitRun, encWord_eq_wordOf, run, andThen_next, rest]
    · rw [latched, panel, List.map_cons, List.append_assoc, List.singleton_append]

/-- Settles O10: `emitRun_encWord`. -/
theorem pairsLatchOneValueEach : Obligations.PairsLatchOneValueEach := by
  intro s vs hc hm
  obtain ⟨t, run, latched, strobe⟩ := emitRun_encWord ((pinMapOk_iff s.cfg).1 hc) hm vs
  exact ⟨t, run, latched, fun nonempty => strobe (.inr nonempty)⟩

end Sys2Proof.Machine
end

section
/-! PROOFS of the statements of 41_frame_ops: how an encode begins, each further step of it, the whole frame and its
determinism, and what the panel latches of a frame that is streamed. -/

namespace Sys2Proof.Machine

/-! ### A buffer that is in use (R136, R261) -/

theorem bufferInUse_iff {s : State} {k : Nat} {b : Buffer} :
    bufferInUse s k b = true ↔ s.pool.armed = some k ∨ s.pool.pendingNext = some k ∨
      ∃ ch ∈ s.chans, ch.enable = true ∧ ch.src.toNat = b.physBase := by
  simp [bufferInUse, or_assoc]

theorem bufferInUse_eq_false {s : State} {k : Nat} {b : Buffer} (armed : s.pool.armed ≠ some k)
    (published : s.pool.pendingNext ≠ some k)
    (streamed : ∀ ch ∈ s.chans, ch.enable = true → ch.src.toNat ≠ b.physBase) :
    bufferInUse s k b = false := by
  rw [← Bool.not_eq_true, bufferInUse_iff]
  rintro (h | h | ⟨ch, hch, enabled, source⟩)
  · exact armed h
  · exact published h
  · exact streamed ch hch enabled source

/-! ### Writing one pair (R130) -/

theorem readTx_pairWritten (k j : Nat) (b : Buffer) (e : Bool) (pair : Word × Word) (f : Producer → Producer)
    (s : State) :
    readTx (pairWritten k j b e pair f s) b j = some pair.1 ∧
      readTx (pairWritten k j b e pair f s) b (j + 1) = some pair.2 := by
  simp [pairWritten, readTx_writeTxPair]

/-- No byte but the eight of the pair changes. -/
theorem memRead_pairWritten (k j : Nat) (b : Buffer) (e : Bool) (pair : Word × Word) (f : Producer → Producer)
    (s : State) {a : Nat} (h : a < b.physBase + 4 * j ∨ b.physBase + 4 * (j + 2) ≤ a) :
    memRead (pairWritten k j b e pair f s).txMem a = memRead s.txMem a :=
  memRead_writeTxPair b j pair _ h

/-- A pair changes the producer, its buffer's record and transfer space alone. -/
theorem pairWritten_frame (k j : Nat) (b : Buffer) (e : Bool) (pair : Word × Word) (f : Producer → Producer)
    (s : State) :
    { pairWritten k j b e pair f s with
      producer := s.producer, pool := { (pairWritten k j b e pair f s).pool with bufs := s.pool.bufs },
      txMem := s.txMem } = s := rfl

/-! ### Step 0 of an encode (R130, R134, R135) -/

/-- The state after step 0 of `ENC_FRAME k` (R135). -/
def frameBegun (k : Nat) (b : Buffer) (s : State) : State :=
  (pairWritten k 0 b false (encWord s.cfg false (cmdValue s.cfg.cmdWritePixels))
    (fun p => { p with encoding := some k, encIdx := 0 }) s).setRet .void

section
variable {s : State} {k : Nat} (process : s.irq.ctx = .process) (idle : s.producer.encoding = none) (hk : k < nPool)
include process idle hk

/-- The size of the source is checked first (R134). -/
theorem exec_encFrame_of_source_ne (source : s.pix.bytes ≠ pixelBytes) :
    exec (.encFrame k) s = raiseError (.geometryMismatch (.bytes s.pix.bytes) (.bytes pixelBytes)) s := by
  show execEncFrame k s = _
  rw [execEncFrame, processOnly_of process, ifIndexed_of hk, idle, if_neg (by decide), if_pos source]

/-- With the right source, the size of the buffer and its use decide (R134, R136). -/
theorem exec_encFrame_of_source_eq {b : Buffer} (source : s.pix.bytes = pixelBytes) (ha : s.pool.allocated = true)
    (hb : s.pool.bufs[k]? = some b) :
    exec (.encFrame k) s =
      if b.capacity ≠ bufWords then raiseError (.geometryMismatch (.words b.capacity) (.words bufWords)) s
      else if bufferInUse s k b then .fault .bufferInUse else .next (frameBegun k b s) := by
  show execEncFrame k s = _
  rw [execEncFrame, processOnly_of process, ifIndexed_of hk, idle, if_neg (by decide), if_neg (not_not.2 source),
    withBuf_of hk ha hb]
  rfl

end

/-- An idle buffer of the right size is begun (R130). -/
theorem exec_encFrame_of_free {s : State} {k : Nat} {b : Buffer} (process : s.irq.ctx = .process)
    (idle : s.producer.encoding = none) (hk : k < nPool) (source : s.pix.bytes = pixelBytes)
    (ha : s.pool.allocated = true) (hb : s.pool.bufs[k]? = some b) (size : b.capacity = bufWords)
    (free : bufferInUse s k b = false) : exec (.encFrame k) s = .next (frameBegun k b s) := by
  rw [exec_encFrame_of_source_eq process idle hk source ha hb, if_neg (not_not.2 size), free]
  rfl

/-- Settles O14: the state is `frameBegun`, one pair written at word 0. -/
theorem encodeFrameBegins : Obligations.EncodeFrameBegins := by
  intro s k b process idle source hk ha hb size armed published streamed
  have free := bufferInUse_eq_false armed published streamed
  obtain ⟨lo, hi⟩ := readTx_pairWritten k 0 b false (encWord s.cfg false (cmdValue s.cfg.cmdWritePixels))
    (fun p => { p with encoding := some k, encIdx := 0 }) s
  exact ⟨frameBegun k b s, exec_encFrame_of_free process idle hk source ha hb size free, rfl, rfl, lo, hi,
    fun a h => memRead_pairWritten k 0 b _ _ _ s h, rfl, rfl⟩

/-- Settles O15: the two size checks of `ENC_FRAME`, in their order. -/
theorem geometryMismatchWritesNothing : Obligations.GeometryMismatchWritesNothing := by
  intro s k process idle hk
  refine ⟨fun source => exec_encFrame_of_source_ne process idle hk source, fun source ha b hb size => ?_⟩
  exact (exec_encFrame_of_source_eq process idle hk source ha hb).trans (if_pos size)

/-! ### A further step of an encode (R135) -/

/-- The state after the step of pixel `p` of an encode into `k` (R135). -/
def pixelEncoded (k : Nat) (b : Buffer) (p : Pixel) (s : State) : State :=
  pairWritten k (2 + 2 * s.producer.encIdx) b (decide (s.producer.encIdx + 1 = nPix)) (encWord s.cfg true p)
    (producerAfter k s.producer.encIdx) s

section
variable {s : State} {k : Nat} {b : Buffer} (encoding : s.producer.encoding = some k) (hk : k < nPool)
  (ha : s.pool.allocated = true) (hb : s.pool.bufs[k]? = some b)
include encoding hk ha hb

theorem encodeStep_of_inUse (inUse : bufferInUse s k b = true) : encodeStep s = .fault .bufferInUse := by
  simp only [encodeStep, encoding, withBuf_of hk ha hb, inUse, if_true]

theorem encodeStep_of_unwritten (free : bufferInUse s k b = false) (unwritten : readPixel s s.producer.encIdx = none) :
    encodeStep s = .fault .pixelUnwritten := by
  simp only [encodeStep, encoding, withBuf_of hk ha hb, free, unwritten, Bool.false_eq_true, if_false]

theorem encodeStep_of_pixel {p : Pixel} (free : bufferInUse s k b = false)
    (pixel : readPixel s s.producer.encIdx = some p) : encodeStep s = .next (pixelEncoded k b p s) := by
  simp only [encodeStep, encoding, withBuf_of hk ha hb, free, pixel, Bool.false_eq_true, if_false]
  rfl

end

/-- Settles O16: both forms of writing a buffer check its use. -/
theorem armedOrPublishedBufferIsNeverWritten : Obligations.ArmedOrPublishedBufferIsNeverWritten := by
  intro s k b hk ha hb hany
  have inUse := bufferInUse_iff.2 hany
  refine ⟨fun process idle source size => ?_, fun encoding => encodeStep_of_inUse encoding hk ha hb inUse⟩
  rw [exec_encFrame_of_source_eq process idle hk source ha hb, if_neg (not_not.2 size), if_pos inUse]

theorem producerAfter_of_more {k i : Nat} {p : Producer} (encoding : p.encoding = some k) (more : i + 1 < nPix) :
    producerAfter k i p = { p with encIdx := i + 1 } := by
  rw [producerAfter, if_neg (Nat.ne_of_lt more), ← encoding]

theorem producerAfter_of_last {k i : Nat} {p : Producer} (last : i + 1 = nPix) :
    producerAfter k i p = { p with encoding := none, encIdx := nPix } := by
  rw [producerAfter, if_pos last, last]

/-- Settles O17: the state is `pixelEncoded`, one pair written at word `2+2*i`. -/
theorem encodeStepWritesOnePixel : Obligations.EncodeStepWritesOnePixel := by
  intro s k b encoding _ hk ha hb armed published streamed
  have free := bufferInUse_eq_false armed published streamed
  refine ⟨encodeStep_of_unwritten encoding hk ha hb free, fun p pixel =>
    ⟨pixelEncoded k b p s, encodeStep_of_pixel encoding hk ha hb free pixel, fun more => ?_, fun last => ?_, ?_, ?_, ?_,
      pairWritten_frame ..⟩⟩
  · exact ⟨producerAfter_of_more encoding more, by simp [pixelEncoded, pairWritten, Nat.ne_of_lt more]⟩
  · exact ⟨producerAfter_of_last last, by simp [pixelEncoded, pairWritten, last]⟩
  · exact (readTx_pairWritten ..).1
  · rw [show 3 + 2 * s.producer.encIdx = 2 + 2 * s.producer.encIdx + 1 by omega]
    exact (readTx_pairWritten ..).2
  · intro a outside
    exact memRead_pairWritten _ _ _ _ _ _ _ (by omega)

/-! ### A whole frame (R131, R132, R133) -/

/-- An encode into `k` with the first `i` pixels done, and `m` in transfer space (R135). -/
def encodedTo (k : Nat) (b : Buffer) (i : Nat) (m : Memory) (s : State) : State :=
  { s with
    producer := { s.producer with encoding := if i = nPix then none else some k, encIdx := i }
    pool := { s.pool with bufs := s.pool.bufs.set k { b with encoded := decide (i = nPix) } }
    txMem := m
    ret := .void }

/-- Transfer space `m` holds the words of the first `i` pixels in `b`, and outside `b` is that of `s`. -/
structure FrameWritten (s : State) (b : Buffer) (P : Nat → Pixel) (i : Nat) (m : Memory) : Prop where
  words : holdsFrame { s with txMem := m } b P (2 + 2 * i)
  outside : ∀ a, ¬ inBuffer b a → memRead m a = memRead s.txMem a

/-- A pair inside the buffer leaves the bytes outside it. -/
theorem memRead_pairWritten_outside {k j : Nat} {b : Buffer} (e : Bool) (pair : Word × Word) (f : Producer → Producer)
    (s : State) (inside : j + 2 ≤ bufWords) {a : Nat} (ha : ¬ inBuffer b a) :
    memRead (pairWritten k j b e pair f s).txMem a = memRead s.txMem a := by
  have frame : frameBytes = 4 * bufWords := rfl
  unfold inBuffer at ha
  exact memRead_pairWritten _ _ _ _ _ _ _ (by omega)

theorem frameBegun_eq_encodedTo (k : Nat) (b : Buffer) (P : Nat → Pixel) (s : State) :
    ∃ m, frameBegun k b s = encodedTo k b 0 m s ∧ FrameWritten s b P 0 m :=
  ⟨_, rfl, holdsFrame_commandWritten s k b false _ P, fun _ ha => memRead_pairWritten_outside _ _ _ s (by decide) ha⟩

/-- The step of a pixel takes `encodedTo` one pixel on. -/
theorem pixelEncoded_encodedTo (k : Nat) (b : Buffer) (p : Pixel) (i : Nat) (m : Memory) (s : State) :
    pixelEncoded k b p (encodedTo k b i m s) =
      encodedTo k b (i + 1) (pixelEncoded k b p (encodedTo k b i m s)).txMem s := by
  simp only [pixelEncoded, pairWritten, State.setBuf, encodedTo, List.set_set]
  rfl

/-- The pair of pixel `i` is written in its place of the frame. -/
theorem FrameWritten.pixelEncoded {s : State} {b : Buffer} {P : Nat → Pixel} {i : Nat} {m : Memory}
    (written : FrameWritten s b P i m) (k : Nat) (hi : i < nPix) :
    FrameWritten s b P (i + 1) (pixelEncoded k b (P i) (encodedTo k b i m s)).txMem where
  words := by
    have next := holdsFrame_pixelWritten (s := encodedTo k b i m s) (k := k) (e := decide (i + 1 = nPix))
      (f := producerAfter k i) (P i) written.words
    rwa [Function.update_eq_self] at next
  outside a ha := by
    have frame : bufWords = 2 + 2 * nPix := rfl
    have inside : 2 + 2 * i + 2 ≤ bufWords := by omega
    exact (memRead_pairWritten_outside _ _ _ _ inside ha).trans (written.outside a ha)

section
variable {s : State} {k : Nat} {b : Buffer} {P : Nat → Pixel} (hk : k < nPool) (ha : s.pool.allocated = true)
  (hb : s.pool.bufs[k]? = some b) (free : bufferInUse s k b = false) (readable : ∀ i < nPix, readPixel s i = some (P i))
include hk ha hb free readable

theorem encodeStep_encodedTo {i : Nat} (m : Memory) (hi : i < nPix) :
    encodeStep (encodedTo k b i m s) = .next (pixelEncoded k b (P i) (encodedTo k b i m s)) := by
  obtain ⟨hlt, -⟩ := List.getElem?_eq_some_iff.1 hb
  have buffer : (encodedTo k b i m s).pool.bufs[k]? = some { b with encoded := decide (i = nPix) } :=
    List.getElem?_set_self hlt
  exact encodeStep_of_pixel (s := encodedTo k b i m s) (if_neg (Nat.ne_of_lt hi)) hk ha buffer free (readable i hi)

/-- `n` steps do `n` pixels more. -/
theorem encodeRun_encodedTo (n : Nat) {i : Nat} {m : Memory} (written : FrameWritten s b P i m) (hn : i + n ≤ nPix) :
    ∃ m', encodeRun n (encodedTo k b i m s) = .next (encodedTo k b (i + n) m' s) ∧ FrameWritten s b P (i + n) m' := by
  induction n generalizing i m with
  | zero => exact ⟨m, rfl, written⟩
  | succ n ih =>
    have hi : i < nPix := by omega
    obtain ⟨m', run, done⟩ := ih (written.pixelEncoded k hi) (by omega)
    rw [encodeRun, encodeStep_encodedTo hk ha hb free readable m hi, andThen_next, pixelEncoded_encodedTo, run,
      Nat.add_right_comm i 1 n]
    exact ⟨m', rfl, Nat.add_right_comm i 1 n ▸ done⟩

/-- A whole encode into a free buffer completes with the whole frame written: `NPIX` steps after step 0. -/
theorem encodeWhole_of_free (process : s.irq.ctx = .process) (idle : s.producer.encoding = none)
    (source : s.pix.bytes = pixelBytes) (size : b.capacity = bufWords) :
    ∃ m, encodeWhole k s = .next (encodedTo k b nPix m s) ∧ FrameWritten s b P nPix m := by
  obtain ⟨m, begun, written⟩ := frameBegun_eq_encodedTo k b P s
  obtain ⟨m', run, done⟩ := encodeRun_encodedTo hk ha hb free readable nPix written (Nat.zero_add nPix).le
  rw [Nat.zero_add] at run done
  refine ⟨m', ?_, done⟩
  rw [encodeWhole, exec_encFrame_of_free process idle hk source ha hb size free, andThen_next, begun, run]

end

/-- Settles O18: `encodeWhole_of_free`. -/
theorem wholeFrameIsEncoded : Obligations.WholeFrameIsEncoded := by
  intro s k b P process idle source hk ha hb size armed published streamed readable
  have free := bufferInUse_eq_false armed published streamed
  obtain ⟨m, run, written⟩ := encodeWhole_of_free hk ha hb free readable process idle source size
  refine ⟨encodedTo k b nPix m s, run, rfl, written.words, written.outside, ?_, ?_, rfl, rfl⟩
  · rw [encodedTo, decide_eq_true rfl]
  · rw [encodedTo, if_pos rfl]

/-! ### Determinism (R137) -/

/-- A step of an encode that completes has read its pixel, and moves on by one (R138, R272). -/
theorem encodeStep_reads {s t : State} (h : encodeStep s = .next t) :
    (∃ p, readPixel s s.producer.encIdx = some p) ∧ t.cfg = s.cfg ∧ t.pix = s.pix ∧
      t.producer.encIdx = s.producer.encIdx + 1 := by
  refine ⟨?_, ?_⟩
  · unfold encodeStep at h
    split at h
    · cases h
    · obtain ⟨-, -, b, -, ho⟩ := withBuf_eq_next.1 h
      split at ho
      · cases ho
      · split at ho
        · cases ho
        · rename_i p pixel
          exact ⟨p, pixel⟩
  · obtain ⟨k, b, p, -, -, -, rfl⟩ := encodeStep_next h
    exact ⟨rfl, rfl, rfl⟩

/-- Steps of an encode that complete have read each its pixel. -/
theorem encodeRun_reads {n : Nat} {s t : State} (h : encodeRun n s = .next t) {i : Nat} (hi : i < n) :
    ∃ p, readPixel s (s.producer.encIdx + i) = some p := by
  induction n generalizing s i with
  | zero => omega
  | succ n ih =>
    obtain ⟨u, step, rest⟩ := andThen_eq_next.1 h
    obtain ⟨first, cfg, pix, next⟩ := encodeStep_reads step
    cases i with
    | zero => exact first
    | succ i =>
      have later := ih rest (Nat.lt_of_succ_lt_succ hi)
      simp only [readPixel, cfg, pix, next] at later ⊢
      rwa [Nat.add_right_comm s.producer.encIdx 1 i] at later

/-- Steps of an encode that complete had one in progress. -/
theorem encoding_of_encodeRun {n : Nat} {s t : State} (hn : n ≠ 0) (h : encodeRun n s = .next t) :
    ∃ k, s.producer.encoding = some k := by
  obtain ⟨m, rfl⟩ := Nat.exists_eq_succ_of_ne_zero hn
  obtain ⟨u, step, -⟩ := andThen_eq_next.1 h
  obtain ⟨k, b, p, encoding, -⟩ := encodeStep_next step
  exact ⟨k, encoding⟩

/-- An `ENC_FRAME k` that completes and starts an encode was given what step 0 needs (R130, R134, R136). -/
theorem execEncFrame_needs {k : Nat} {s t : State} (h : execEncFrame k s = .next t)
    (started : ∃ l, t.producer.encoding = some l) :
    s.irq.ctx = .process ∧ s.producer.encoding = none ∧ s.pix.bytes = pixelBytes ∧ k < nPool ∧
      s.pool.allocated = true ∧ ∃ b, s.pool.bufs[k]? = some b ∧ b.capacity = bufWords ∧ bufferInUse s k b = false ∧
        t = frameBegun k b s := by
  obtain ⟨process, ho⟩ := processOnly_eq_next.1 h
  obtain ⟨hk, ho⟩ := ifIndexed_eq_next.1 ho
  obtain ⟨l, hl⟩ := started
  split at ho
  · cases ho
  · rename_i idle
    have idle : s.producer.encoding = none := by simpa using idle
    split at ho
    · cases ho
      exact absurd (idle.symm.trans hl) nofun
    · rename_i source
      obtain ⟨-, ha, b, hb, ho⟩ := withBuf_eq_next.1 ho
      split at ho
      · cases ho
        exact absurd (idle.symm.trans hl) nofun
      · rename_i size
        split at ho
        · cases ho
        · rename_i free
          cases ho
          exact ⟨process, idle, not_not.1 source, hk, ha, b, hb, not_not.1 size, by simpa using free, rfl⟩

/-- A whole encode that completes met every hypothesis of `WholeFrameIsEncoded`. -/
theorem encodeWhole_needs {k : Nat} {s t : State} (h : encodeWhole k s = .next t) :
    s.irq.ctx = .process ∧ s.producer.encoding = none ∧ s.pix.bytes = pixelBytes ∧ k < nPool ∧
      s.pool.allocated = true ∧ (∀ i < nPix, ∃ p, readPixel s i = some p) ∧
      ∃ b, s.pool.bufs[k]? = some b ∧ b.capacity = bufWords ∧ bufferInUse s k b = false := by
  obtain ⟨u, begun, run⟩ := andThen_eq_next.1 h
  obtain ⟨process, idle, source, hk, ha, b, hb, size, free, rfl⟩ :=
    execEncFrame_needs begun (encoding_of_encodeRun (by decide) run)
  refine ⟨process, idle, source, hk, ha, fun i hi => ?_, b, hb, size, free⟩
  obtain ⟨p, pixel⟩ := encodeRun_reads run hi
  exact ⟨p, (congrArg (readPixel s) (Nat.zero_add i)).symm.trans pixel⟩

/-- The pixels of a state, as a function; 0 stands for a pixel that holds no value. -/
def pixels (s : State) (i : Nat) : Pixel := (readPixel s i).getD 0

/-- A whole encode that completes leaves the frame of the pixels it read. -/
theorem holdsFrame_of_encodeWhole {k : Nat} {b : Buffer} {s t : State} (hb : s.pool.bufs[k]? = some b)
    (h : encodeWhole k s = .next t) :
    t.cfg = s.cfg ∧ holdsFrame t b (pixels s) bufWords ∧ ∀ i < nPix, readPixel s i = some (pixels s i) := by
  obtain ⟨process, idle, source, hk, ha, reads, b', hb', size, free⟩ := encodeWhole_needs h
  obtain rfl := Option.some.inj (hb.symm.trans hb')
  have readable : ∀ i < nPix, readPixel s i = some (pixels s i) := by
    intro i hi
    obtain ⟨p, pixel⟩ := reads i hi
    rw [pixels, pixel, Option.getD_some]
  obtain ⟨m, run, written⟩ := encodeWhole_of_free hk ha hb free readable process idle source size
  obtain rfl : encodedTo k b nPix m s = t := Host.Outcome.next.inj (run.symm.trans h)
  exact ⟨rfl, written.words, readable⟩

/-- Each of four bytes put together is found in its place. -/
theorem extractLsb'_of_four_bytes (b0 b1 b2 b3 : Byte) :
    (b3 ++ b2 ++ b1 ++ b0).extractLsb' 0 8 = b0 ∧ (b3 ++ b2 ++ b1 ++ b0).extractLsb' 8 8 = b1 ∧
      (b3 ++ b2 ++ b1 ++ b0).extractLsb' 16 8 = b2 ∧ (b3 ++ b2 ++ b1 ++ b0).extractLsb' 24 8 = b3 := by
  refine ⟨BitVec.extractLsb'_append_eq_right, ?_, ?_, ?_⟩
  · rw [BitVec.extractLsb'_append_eq_of_le (by decide)]
    exact BitVec.extractLsb'_append_eq_right
  · rw [BitVec.extractLsb'_append_eq_of_le (by decide), BitVec.extractLsb'_append_eq_of_le (by decide)]
    exact BitVec.extractLsb'_append_eq_right
  · rw [BitVec.extractLsb'_append_eq_of_le (by decide), BitVec.extractLsb'_append_eq_of_le (by decide)]
    exact BitVec.extractLsb'_append_eq_left

theorem wordByte_wordOfBytes (e : Endian) (b0 b1 b2 b3 : Byte) :
    wordByte e (wordOfBytes e b0 b1 b2 b3) 0 = b0 ∧ wordByte e (wordOfBytes e b0 b1 b2 b3) 1 = b1 ∧
      wordByte e (wordOfBytes e b0 b1 b2 b3) 2 = b2 ∧ wordByte e (wordOfBytes e b0 b1 b2 b3) 3 = b3 := by
  cases e with
  | little => exact extractLsb'_of_four_bytes b0 b1 b2 b3
  | big =>
    obtain ⟨h3, h2, h1, h0⟩ := extractLsb'_of_four_bytes b3 b2 b1 b0
    exact ⟨h0, h1, h2, h3⟩

/-- A word that holds a value has its four bytes in memory (R50). -/
theorem memRead_of_read32 {e : Endian} {m : Memory} {a : Nat} {w : Word} (h : read32 e m a = some w) {i : Nat}
    (hi : i < 4) : memRead m (a + i) = some (wordByte e w i) := by
  unfold read32 at h
  split at h
  · rename_i b0 b1 b2 b3 h0 h1 h2 h3
    cases h
    obtain ⟨w0, w1, w2, w3⟩ := wordByte_wordOfBytes e b0 b1 b2 b3
    obtain rfl | rfl | rfl | rfl : i = 0 ∨ i = 1 ∨ i = 2 ∨ i = 3 := by omega
    · rw [w0]; exact h0
    · rw [w1]; exact h1
    · rw [w2]; exact h2
    · rw [w3]; exact h3
  · cases h

/-- A byte of a buffer that holds a frame is a byte of the frame's word there. -/
theorem memRead_of_holdsFrame {s : State} {b : Buffer} {P : Nat → Pixel} (h : holdsFrame s b P bufWords) {x : Nat}
    (hx : x < frameBytes) :
    memRead s.txMem (b.physBase + x) = some (wordByte s.cfg.endian (frameWord s.cfg P (x / 4)) (x % 4)) := by
  have frame : frameBytes = 4 * bufWords := rfl
  have place : b.physBase + x = txAddr b (x / 4) + x % 4 := by
    unfold txAddr wordBytes
    omega
  rw [place]
  exact memRead_of_read32 (h (x / 4) (by omega)) (Nat.mod_lt x (by decide))

/-- Settles O19: both buffers hold the frame of the pixels read, by `holdsFrame_of_encodeWhole`. -/
theorem encodingIsDeterministic : Obligations.EncodingIsDeterministic := by
  intro s s' t t' k k' b b' cfg alike hb hb' run run'
  obtain ⟨hcfg, holds, readable⟩ := holdsFrame_of_encodeWhole hb run
  obtain ⟨hcfg', holds', -⟩ := holdsFrame_of_encodeWhole hb' run'
  have words : bufWords = 2 + 2 * nPix := rfl
  have bytes : frameBytes = 4 * bufWords := rfl
  have same : t'.cfg = t.cfg := hcfg'.trans (cfg.symm.trans hcfg.symm)
  have frame {j : Nat} (hj : j < bufWords) : frameWord t.cfg (pixels s) j = frameWord t'.cfg (pixels s') j := by
    rw [same]
    exact frameWord_congr t.cfg (fun i hi => congrArg (·.getD 0) (alike i hi)) (words ▸ hj)
  refine ⟨fun j hj => ?_, fun x hx => ?_, pixels s, readable, ?_, fun i hi => ?_⟩
  · rw [holds j hj, holds' j hj, frame hj]
  · rw [memRead_of_holdsFrame holds hx, memRead_of_holdsFrame holds' hx, frame (by omega), same]
  · obtain ⟨lo, hi⟩ := frameWord_command t.cfg (pixels s)
    rw [holds 0 (by decide), holds 1 (by decide), lo, hi, hcfg]
    rfl
  · obtain ⟨lo, hi'⟩ := frameWord_pixel t.cfg (pixels s) i
    rw [holds _ (by omega), holds _ (by omega), lo, hi', hcfg]

/-! ### A streamed frame (R139, R192, R193) -/

theorem length_frameLatches (c : Config) (P : Nat → Pixel) : (frameLatches c P).length = 1 + nPix := by
  rw [frameLatches, List.length_cons, List.length_map, List.length_range, Nat.add_comm]

/-- Pair `m` of a frame carries its latch `m`: the command, then the pixels (R94, R139). -/
theorem frameWord_of_latch {c : Config} {P : Nat → Pixel} {m : Nat} {l : Latch}
    (h : (frameLatches c P)[m]? = some l) :
    frameWord c P (2 * m) = wordOf c l.dc false l.value ∧ frameWord c P (2 * m + 1) = wordOf c l.dc true l.value := by
  cases m with
  | zero =>
    obtain rfl : _ = l := Option.some.inj h
    have pair := frameWord_command c P
    rwa [encWord_eq_wordOf] at pair
  | succ i =>
    rw [frameLatches, List.getElem?_cons_succ, List.getElem?_map] at h
    obtain ⟨n, hn, rfl⟩ := Option.map_eq_some_iff.1 h
    obtain ⟨-, rfl⟩ := List.getElem?_eq_some_iff.1 hn
    have pair := frameWord_pixel c P i
    rw [encWord_eq_wordOf, Nat.add_comm 2, ← Nat.mul_succ, show 3 + 2 * i = 2 * (i + 1) + 1 by omega] at pair
    rwa [List.getElem_range]

/-- Word `j` of a frame belongs to latch `j/2`, with the strobe at odd places. -/
theorem frameWord_eq_of_latch (c : Config) (P : Nat → Pixel) {j : Nat} (hj : j < bufWords) :
    ∃ l, (frameLatches c P)[j / 2]? = some l ∧ frameWord c P j = wordOf c l.dc (decide (j % 2 = 1)) l.value := by
  have words : bufWords = 2 * (1 + nPix) := rfl
  have hlt : j / 2 < (frameLatches c P).length := by rw [length_frameLatches]; omega
  have latch := List.getElem?_eq_getElem hlt
  obtain ⟨lo, hi⟩ := frameWord_of_latch latch
  refine ⟨_, latch, ?_⟩
  obtain even | odd := Nat.mod_two_eq_zero_or_one j
  · rw [even]
    rwa [show 2 * (j / 2) = j by omega] at lo
  · rw [odd]
    rwa [show 2 * (j / 2) + 1 = j by omega] at hi

/-- What the pins and the panel show after the first `j` words of the frame of `P`, `before` being latched already. -/
structure FrameSeen (c : Config) (P : Nat → Pixel) (before : List Latch) (j : Nat) (w : Word) (p : Panel) : Prop where
  word : 0 < j → w = frameWord c P (j - 1)
  strobe : 0 < j → p.strobeKnown = true ∧ p.strobeSeen = decide (j % 2 = 0)
  latched : p.latched = before ++ (frameLatches c P).take (j / 2)

/-- The strobe-low word of a pair latches nothing, the strobe-high one after it the pair's value (R118, R119). -/
theorem FrameSeen.panelSees {c : Config} (h : PinMapFacts c) {P : Nat → Pixel} {before : List Latch} {j : Nat}
    {w : Word} {p : Panel} (seen : FrameSeen c P before j w p) (hj : j < bufWords) :
    FrameSeen c P before (j + 1) (frameWord c P j) (panelSees c (frameWord c P j) p) := by
  obtain ⟨l, hl, hw⟩ := frameWord_eq_of_latch c P hj
  have strobe : strobeBit c (frameWord c P j) = decide (j % 2 = 1) := hw ▸ strobeBit_wordOf h ..
  refine ⟨fun _ => rfl, fun _ => ⟨rfl, strobe.trans (by congr 1; exact propext (by omega))⟩, ?_⟩
  obtain even | odd := Nat.mod_two_eq_zero_or_one j
  · rw [panelSees_of_no_rise (.inr (by rw [strobe, even]; rfl)), seen.latched, show (j + 1) / 2 = j / 2 by omega]
  · obtain ⟨-, low⟩ := seen.strobe (by omega)
    rw [panelSees_of_rise (by rw [low, odd]; rfl) (by rw [strobe, odd]; rfl), seen.latched,
      show (j + 1) / 2 = j / 2 + 1 by omega, List.take_add_one, hl, hw, markerBit_wordOf h, unspread_wordOf h,
      List.append_assoc]
    rfl

/-- A word of a running channel's buffer goes to `PINDATA`, when its latch is determined (R192). -/
theorem exec_dmaXfer_of {s : State} {c : Nat} {ch : Channel} {w : Word} (hc : s.chans[c]? = some ch)
    (enabled : ch.enable = true) (more : ch.dmaPos < ch.words) (mode : s.gpio.pinMode = .data)
    (valid : s.tcon.valid = true)
    (word : read32 s.cfg.endian s.txMem (ch.src.toNat + wordBytes * ch.dmaPos) = some w)
    (hw : canonical s.cfg w = true) (known : s.panel.strobeKnown = true ∨ strobeBit s.cfg w = false) :
    exec (.dmaXfer c) s = .next ((pinWritten w s).setChan c (channelAfterWord ch)) := by
  show execDmaXfer c s = _
  rw [execDmaXfer, withChan_of hc, enabled, decide_eq_true more, mode, valid, word]
  simp [pinWrite_of hw known]

/-- Channel `ch` after the first `j` words of a buffer of a whole frame (R192, R193). -/
def streamedChannel (ch : Channel) (j : Nat) : Channel :=
  if j = bufWords then complete { ch with dmaPos := j } else { ch with dmaPos := j }

theorem channelAfterWord_streamedChannel {ch : Channel} (size : ch.words = bufWords) {j : Nat} (hj : j < bufWords) :
    channelAfterWord (streamedChannel ch j) = streamedChannel ch (j + 1) := by
  rw [streamedChannel, if_neg (Nat.ne_of_lt hj), channelAfterWord, streamedChannel, ← size]
  rfl

/-- `s` with channel `c` after `j` words, `w` on the pins, and what the panel and the trace show then. -/
def streamedTo (c : Nat) (ch : Channel) (j : Nat) (w : Word) (p : Panel) (tr : List Access) (s : State) : State :=
  { s with
    gpio := { s.gpio with pinData := w }
    panel := p
    chans := s.chans.set c (streamedChannel ch j)
    trace := tr }

/-- A word put on the pins in `Data` mode takes `streamedTo` one word on. -/
theorem wordMoved_streamedTo {s : State} {c : Nat} {ch : Channel} {j : Nat} (mode : s.gpio.pinMode = .data)
    (size : ch.words = bufWords) (hj : j < bufWords) (w x : Word) (p : Panel) (tr : List Access) :
    (pinWritten x (streamedTo c ch j w p tr s)).setChan c (channelAfterWord (streamedChannel ch j)) =
      streamedTo c ch (j + 1) x (panelSees s.cfg x p)
        (tr ++ [.write (RegMap.pinDataAddr s.cfg.regmap) .pinData x]) s := by
  rw [channelAfterWord_streamedChannel size hj]
  simp only [pinWritten, streamedTo, mode, State.setChan, State.log, State.setPinData, List.set_set]

/-- A running channel that plays the frame of `P`, on a valid path (R139). -/
structure PlaysFrame (s : State) (c : Nat) (ch : Channel) (b : Buffer) (P : Nat → Pixel) : Prop where
  pinMap : PinMapFacts s.cfg
  channel : s.chans[c]? = some ch
  enabled : ch.enable = true
  size : ch.words = bufWords
  source : ch.src.toNat = b.physBase
  mode : s.gpio.pinMode = .data
  valid : s.tcon.valid = true
  frame : holdsFrame s b P bufWords

/-- One step of the engine plays one word more. -/
theorem PlaysFrame.exec_dmaXfer {s : State} {c : Nat} {ch : Channel} {b : Buffer} {P : Nat → Pixel}
    (plays : PlaysFrame s c ch b P) {before : List Latch} {j : Nat} {w : Word} {p : Panel} (tr : List Access)
    (seen : FrameSeen s.cfg P before j w p) (hj : j < bufWords) :
    exec (.dmaXfer c) (streamedTo c ch j w p tr s) =
      .next (streamedTo c ch (j + 1) (frameWord s.cfg P j) (panelSees s.cfg (frameWord s.cfg P j) p)
        (tr ++ [.write (RegMap.pinDataAddr s.cfg.regmap) .pinData (frameWord s.cfg P j)]) s) := by
  obtain ⟨hlt, -⟩ := List.getElem?_eq_some_iff.1 plays.channel
  obtain ⟨l, -, hw⟩ := frameWord_eq_of_latch s.cfg P hj
  have running : streamedChannel ch j = { ch with dmaPos := j } := if_neg (Nat.ne_of_lt hj)
  have hc : (streamedTo c ch j w p tr s).chans[c]? = some { ch with dmaPos := j } :=
    running ▸ List.getElem?_set_self hlt
  have known : p.strobeKnown = true ∨ strobeBit s.cfg (frameWord s.cfg P j) = false := by
    obtain rfl | started := Nat.eq_zero_or_pos j
    · exact .inr (hw ▸ strobeBit_wordOf plays.pinMap ..)
    · exact .inl (seen.strobe started).1
  have word := plays.frame j hj
  rw [readTx, txAddr, ← plays.source] at word
  have step := exec_dmaXfer_of hc plays.enabled (plays.size ▸ hj) plays.mode plays.valid word
    (hw ▸ canonical_wordOf plays.pinMap ..) known
  rw [step, ← running, wordMoved_streamedTo plays.mode plays.size hj]

/-- `n` steps of the engine play `n` words more. -/
theorem PlaysFrame.xferRun {s : State} {c : Nat} {ch : Channel} {b : Buffer} {P : Nat → Pixel}
    (plays : PlaysFrame s c ch b P) {before : List Latch} (n : Nat) {j : Nat} {w : Word} {p : Panel} {tr : List Access}
    (seen : FrameSeen s.cfg P before j w p) (hn : j + n ≤ bufWords) :
    ∃ w' p' tr', xferRun c n (streamedTo c ch j w p tr s) = .next (streamedTo c ch (j + n) w' p' tr' s) ∧
      FrameSeen s.cfg P before (j + n) w' p' := by
  induction n generalizing j w p tr with
  | zero => exact ⟨w, p, tr, rfl, seen⟩
  | succ n ih =>
    have hj : j < bufWords := by omega
    rw [Machine.xferRun, plays.exec_dmaXfer tr seen hj, andThen_next, ← Nat.add_assoc, Nat.add_right_comm j n 1]
    exact ih (seen.panelSees plays.pinMap hj) (by omega)

theorem streamedTo_zero {s : State} {c : Nat} {ch : Channel} (hc : s.chans[c]? = some ch) (start : ch.dmaPos = 0) :
    streamedTo c ch 0 s.gpio.pinData s.panel s.trace s = s := by
  obtain ⟨hlt, rfl⟩ := List.getElem?_eq_some_iff.1 hc
  have first : streamedChannel s.chans[c] 0 = s.chans[c] := by
    rw [streamedChannel, if_neg (by decide), ← start]
  rw [streamedTo, first, List.set_getElem_self]

theorem streamedChannel_bufWords {ch : Channel} (acknowledged : ch.irqPending = false) :
    streamedChannel ch bufWords = { ch with dmaPos := bufWords, enable := false, irqPending := true } := by
  rw [streamedChannel, if_pos rfl, complete, acknowledged, Bool.or_false]

/-- Settles O46: `CAP` steps of the engine, each of which keeps `FrameSeen`. -/
theorem streamedFrameLatchesThePixels : Obligations.StreamedFrameLatchesThePixels := by
  intro s c ch b P hmap hc enabled start len source acknowledged mode valid frame
  have size : ch.words = bufWords := by rw [Channel.words, len]; rfl
  have plays : PlaysFrame s c ch b P := ⟨(pinMapOk_iff s.cfg).1 hmap, hc, enabled, size, source, mode, valid, frame⟩
  have unseen : FrameSeen s.cfg P s.panel.latched 0 s.gpio.pinData s.panel := ⟨nofun, nofun, by simp⟩
  obtain ⟨w, p, tr, run, seen⟩ := plays.xferRun (tr := s.trace) bufWords unseen (Nat.zero_add bufWords).le
  rw [streamedTo_zero hc start, Nat.zero_add] at run
  rw [Nat.zero_add] at seen
  have nonempty : 0 < bufWords := by decide
  have length := length_frameLatches s.cfg P
  refine ⟨_, run, ?_, length, (seen.strobe nonempty).2, (seen.word nonempty).trans ?_, ?_, rfl, rfl⟩
  · exact seen.latched.trans (by rw [List.take_of_length_le (length.le.trans (by decide))])
  · exact (frameWord_pixel s.cfg P (nPix - 1)).2
  · rw [streamedTo, streamedChannel_bufWords acknowledged]

end Sys2Proof.Machine
end

section
/-! SUPPORT for the statements of 42_timing_and_bringup. The check of the bring-up state, and the state in which each
bring-up operation before the first arm ends. -/

namespace Sys2Proof

/-- The pins `BRG_PINS` drives: those of the four named sets, and those `BASE` holds high (R152). -/
theorem mem_namedPins_iff {c : Config} {p : Nat} :
    p ∈ namedPins c ↔ p < 32 ∧ ((c.aLsb ≤ p ∧ p < c.aLsb + 8) ∨ (c.bLsb ≤ p ∧ p < c.bLsb + 8) ∨ p = c.strobePos ∨
      p = c.dcPos ∨ c.base.getLsbD p = true) := by
  rw [namedPins, List.mem_filter, List.mem_range]
  refine and_congr_right fun hp => ?_
  rw [BitVec.getLsbD_or, Bool.or_eq_true, fieldMask_getLsbD_iff c hp, NamedPosition]
  simp only [Nat.lt_succ_iff, or_assoc]

/-- The operand of `TCON_CFG` names the configuration's record (R153). -/
theorem TimingOperand.record_eq (o : TimingOperand) (c : Config) : o.record c = c.timing := by
  cases o
  rfl

/-- The operand of `BRG_INIT` names the configuration's list (R155). -/
theorem PanelOperand.items_eq (o : PanelOperand) (c : Config) : o.items c = c.panelInit := by
  cases o
  rfl

theorem Timing.activeOk_iff (t : Timing) : t.activeOk = true ↔ t.activeW = 320 ∧ t.activeH = 240 := by
  rw [Timing.activeOk, Bool.and_eq_true, decide_eq_true_iff, decide_eq_true_iff]
  rfl

/-- The value an item stands for, with its marker (R155). -/
def PanelItem.latch (it : PanelItem) : Machine.Latch := ⟨it.dc, cmdValue it.byte⟩

/-- The word that an item leaves on the pins: the second of its pair. -/
def PanelItem.lastWord (c : Config) (it : PanelItem) : Word := (encWord c it.dc (cmdValue it.byte)).2

/-- The two accesses of an item. -/
def PanelItem.accesses (c : Config) (it : PanelItem) : List Machine.Access :=
  [.write (Machine.RegMap.pinDataAddr c.regmap) .pinData (encWord c it.dc (cmdValue it.byte)).1,
    .write (Machine.RegMap.pinDataAddr c.regmap) .pinData (it.lastWord c)]

end Sys2Proof

namespace Sys2Proof.Machine

/-! ### A bring-up operation in and out of its own state (R159, R161) -/

/-- Every operation of an edge of the chain is checked for the source of its edge (R150, R159). -/
theorem exec_of_bringupEdge {i : Instr} {b b' : Bringup} (h : bringupEdge i = some (b, b')) (s : State) :
    ∃ o, exec i s = bringupFrom b s o := by
  cases i with
  | brgClocks => cases h; exact ⟨_, rfl⟩
  | brgPins => cases h; exact ⟨_, rfl⟩
  | tconCfg o => cases h; exact ⟨_, rfl⟩
  | brgInit items => cases h; exact ⟨_, rfl⟩
  | brgArm c k => cases h; exact ⟨_, rfl⟩
  | _ => cases h

theorem bringupFrom_of_interrupt {s : State} {b : Bringup} {o : Out} (interrupt : s.irq.ctx = .interrupt) :
    bringupFrom b s o = .refused .processContextOnly := by
  simp [bringupFrom, processOnly, interrupt]

theorem bringupFrom_of_ne {s : State} {b : Bringup} {o : Out} (process : s.irq.ctx = .process) (h : s.bringup ≠ b) :
    bringupFrom b s o = .refused .wrongBringupState := by
  rw [bringupFrom, processOnly_of process, if_pos h]

theorem bringupFrom_of_error {s : State} {b : Bringup} {o : Out} (process : s.irq.ctx = .process)
    (source : s.bringup = b) (error : s.err.isSome = true) : bringupFrom b s o = .refused .bringupAborted := by
  rw [bringupFrom, processOnly_of process, if_neg (not_not.2 source), if_pos error]

/-! ### The operations of the chain -/

/-- `BRG_CLOCKS` (R151). -/
theorem exec_brgClocks {s : State} (process : s.irq.ctx = .process) (source : s.bringup = .unconfigured)
    (noError : s.err = none) :
    ∃ as, exec .brgClocks s = .next { s with
        crc := ⟨true, true, false, false⟩
        bringup := .clocksEnabled
        trace := s.trace ++ as
        ret := .void } ∧
      fieldsWritten as = [.rstDma, .rstTcon, .clkDma, .clkTcon] := by
  obtain ⟨as, writes, written⟩ := clockWrites_eq s
  refine ⟨as, (bringupFrom_of process source noError _).trans ?_, written⟩
  rw [writes]
  rfl

/-- `BRG_PINS` (R152). -/
theorem exec_brgPins {s : State} (process : s.irq.ctx = .process) (source : s.bringup = .clocksEnabled)
    (noError : s.err = none) :
    ∃ as, exec .brgPins s = .next { s with
      gpio := { s.gpio with pinMode := .data, pins := pinsConfigured s.cfg (namedPins s.cfg) s.gpio.pins }
      bringup := .pinsConfigured
      trace := s.trace ++ as
      ret := .void } := by
  obtain ⟨as, writes, -⟩ := pinWrites_eq s.cfg s
  refine ⟨as, (bringupFrom_of process source noError _).trans ?_⟩
  rw [writes]
  rfl

/-- The state after `TCON_CFG` has stored the record, with the accesses `as` (R154). -/
def timingStored (as : List Access) (s : State) : State :=
  { s with
    tcon := ⟨s.cfg.timing, .all, true⟩
    bringup := .timingConfigured
    trace := s.trace ++ as
    ret := .void }

/-- `TCON_CFG` (R154): the checks in their order, then the seven writes. -/
theorem exec_tconCfg {s : State} (o : TimingOperand) (process : s.irq.ctx = .process)
    (source : s.bringup = .pinsConfigured) (noError : s.err = none) :
    ∃ as, exec (.tconCfg o) s =
      if !s.crc.clkTcon || s.crc.rstTcon then .fault .timingBlockOff
      else if !s.cfg.timing.activeOk then
        raiseError (.geometryMismatch (.active s.cfg.timing.activeW s.cfg.timing.activeH) (.active panelW panelH)) s
      else if s.cfg.timing.clkDiv = 0 then .refused .clkDivZero
      else .next (timingStored as s) := by
  obtain ⟨as, writes, -⟩ := timingWrites_eq s.cfg.timing s
  refine ⟨as, (bringupFrom_of process source noError _).trans ?_⟩
  rw [TimingOperand.record_eq, writes]
  rfl

/-- A divisor of zero is a problem of the configuration (R153). -/
theorem configProblem_of_clkDiv {c : Config} (h : c.timing.clkDiv = 0) : ∃ r, configProblem c = some r := by
  cases hc : configProblem c with
  | some r => exact ⟨r, rfl⟩
  | none =>
    rw [configProblem, if_pos h] at hc
    split_ifs at hc

/-! ### The items of `PANEL_INIT` (R155) -/

/-- The two `PINDATA` writes of a pair with an encoded value (R119, R121). -/
theorem emitWords_wordOf {s : State} (h : PinMapFacts s.cfg) (hm : s.gpio.pinMode = .data) (dc : Bool) (v : Pixel) :
    emitWords (wordOf s.cfg dc false v) (wordOf s.cfg dc true v) s =
      .next (pinWritten (wordOf s.cfg dc true v) (pinWritten (wordOf s.cfg dc false v) s)) := by
  obtain ⟨u, hu, -⟩ := returning_eq_next.1 (exec_emitPair_wordOf h hm dc v)
  obtain ⟨-, -, w, hlo, hhi⟩ := emitWords_eq_next.1 hu
  obtain ⟨-, -, rfl⟩ := pinWrite_eq_next.1 hlo
  obtain ⟨-, -, rfl⟩ := pinWrite_eq_next.1 hhi
  exact hu

/-- The panel's view after a list of items: each is latched, and the last one leaves the strobe high. -/
def panelAfter (items : List PanelItem) (p : Panel) : Panel where
  strobeSeen := p.strobeSeen || !items.isEmpty
  strobeKnown := p.strobeKnown || !items.isEmpty
  latched := p.latched ++ items.map PanelItem.latch

/-- The state after a list of items is emitted (R155). -/
def itemsEmitted (items : List PanelItem) (s : State) : State :=
  { s with
    gpio := { s.gpio with pinData := (items.getLast?.map (PanelItem.lastWord s.cfg)).getD s.gpio.pinData }
    panel := panelAfter items s.panel
    trace := s.trace ++ items.flatMap (PanelItem.accesses s.cfg) }

theorem itemsEmitted_nil (s : State) : itemsEmitted [] s = s := by
  simp [itemsEmitted, panelAfter]

theorem itemsEmitted_cons (it : PanelItem) (items : List PanelItem) (s : State) :
    itemsEmitted (it :: items) s = itemsEmitted items (itemsEmitted [it] s) := by
  simp [itemsEmitted, panelAfter, List.getLast?_cons, Option.getD_map]

/-- One item is its pair, emitted. -/
theorem emitWords_item {s : State} (h : PinMapFacts s.cfg) (hm : s.gpio.pinMode = .data) (it : PanelItem) :
    emitWords (encWord s.cfg it.dc (cmdValue it.byte)).1 (encWord s.cfg it.dc (cmdValue it.byte)).2 s =
      .next (itemsEmitted [it] s) := by
  have panel : (pinWritten (wordOf s.cfg it.dc true (cmdValue it.byte))
      (pinWritten (wordOf s.cfg it.dc false (cmdValue it.byte)) s)).panel = panelAfter [it] s.panel := by
    refine (pairEmitted_panel h hm it.dc (cmdValue it.byte)).trans ?_
    simp [panelAfter, PanelItem.latch]
  rw [encWord_eq_wordOf, emitWords_wordOf h hm]
  simp only [itemsEmitted, ← panel]
  simp [pinWritten, State.log, State.setPinData, PanelItem.accesses, PanelItem.lastWord, encWord_eq_wordOf]

/-- With the pins in `Data` mode every item is emitted, whatever the strobe was (R119, R155). -/
theorem emitItems_of {s : State} (h : PinMapFacts s.cfg) (hm : s.gpio.pinMode = .data) (items : List PanelItem) :
    emitItems items s = .next (itemsEmitted items s) := by
  induction items generalizing s with
  | nil => rw [itemsEmitted_nil]; rfl
  | cons it items ih => rw [emitItems, emitWords_item h hm, andThen_next, ih (s := itemsEmitted [it] s) h hm,
      ← itemsEmitted_cons]

/-- `BRG_INIT` (R155). -/
theorem exec_brgInit {s : State} (o : PanelOperand) (process : s.irq.ctx = .process)
    (source : s.bringup = .timingConfigured) (noError : s.err = none) (valid : s.tcon.valid = true)
    (h : PinMapFacts s.cfg) (hm : s.gpio.pinMode = .data) :
    exec (.brgInit o) s =
      .next (((itemsEmitted s.cfg.panelInit s).setBringup .streamingCommand).setRet .void) := by
  refine (bringupFrom_of process source noError _).trans ?_
  rw [PanelOperand.items_eq, valid, emitItems_of h hm]
  rfl

end Sys2Proof.Machine
end

section
/-! SUPPORT for the statements of 42_timing_and_bringup, continued: the states in which `BRG_ARM` and `TEARDOWN` end, with
their traces. -/

namespace Sys2Proof.Machine

/-! ### `BRG_ARM` (R156, R219) -/

/-- The accesses of register writes are none of the interrupt mask. -/
theorem regWrites_trace (fs : List (RegField × Nat)) (s : State) :
    ∃ as, (regWrites fs s).trace = s.trace ++ as ∧ .mask ∉ as ∧ .unmask ∉ as := by
  induction fs generalizing s with
  | nil => exact ⟨[], (List.append_nil _).symm, List.not_mem_nil, List.not_mem_nil⟩
  | cons x fs ih =>
    obtain ⟨as, later, unmasked⟩ := ih (regWrite x.1 x.2 s)
    refine ⟨regAccesses x.1 x.2 s ++ as, ?_, by simpa [regAccesses] using unmasked⟩
    rw [regWrites, later, regWrite_trace, List.append_assoc]

theorem mask_notMem_of_regWrites {fs : List (RegField × Nat)} {s : State} {as : List Access}
    (h : (regWrites fs s).trace = s.trace ++ as) : .mask ∉ as ∧ .unmask ∉ as := by
  obtain ⟨bs, trace, unmasked⟩ := regWrites_trace fs s
  exact List.append_cancel_left (h.symm.trans trace) ▸ unmasked

/-- A list of accesses from `mask` to `unmask` is a bracket round some others. -/
theorem exists_bracket {as : List Access} (first : as.head? = some .mask) (last : as.getLast? = some .unmask) :
    ∃ mid, as = .mask :: mid ++ [.unmask] := by
  obtain ⟨init, rfl⟩ := List.getLast?_eq_some_iff.1 last
  cases init with
  | nil => cases first
  | cons x mid =>
    cases first
    exact ⟨mid, rfl⟩

/-- The trace of a configuration (R187, R219): its four writes alone where the hardware is atomic, else between `mask` and
`unmask`. -/
theorem configuredState_trace {s : State} {c : Nat} {ch : Channel} (process : s.irq.ctx = .process)
    (hc : s.chans[c]? = some ch) (b : Buffer) :
    ∃ as, configuredState c b s = ((s.setMasked (maskAfter s)).setChan c (configuredChannel s.cfg b ch)).log as ∧
      (s.cfg.hwAtomicRegUpdate = true →
        fieldsWritten as = [.src c, .dst c, .len c, .ctrl c] ∧ .mask ∉ as ∧ .unmask ∉ as) ∧
      (s.cfg.hwAtomicRegUpdate = false → ∃ mid, as = .mask :: mid ++ [.unmask] ∧
        fieldsWritten mid = [.src c, .dst c, .len c, .ctrl c]) := by
  obtain ⟨as, heq, written, bracket, -⟩ := configuredState_eq hc b
  refine ⟨as, heq, fun atomic => ⟨written, ?_⟩, fun notAtomic => ?_⟩
  · have plain : configuredState c b s = (regWrites (configureWrites s.cfg c b) s).markConfigured c := by
      simp [configuredState, maskNeeded, atomic]
    exact mask_notMem_of_regWrites (fs := configureWrites s.cfg c b) (congrArg State.trace (plain.symm.trans heq))
  · obtain ⟨first, last⟩ := bracket (by simp [maskNeeded, notAtomic, process])
    obtain ⟨mid, rfl⟩ := exists_bracket first last
    refine ⟨mid, rfl, ?_⟩
    rw [fieldsWritten_append] at written
    exact (List.append_nil _).symm.trans written

/-- A configured channel that is stopped and acknowledged starts on a valid path, from word 0 (R188). -/
theorem start_of {s : State} {c : Nat} {ch : Channel} (hc : s.chans[c]? = some ch) (stopped : ch.enable = false)
    (acknowledged : ch.irqPending = false) (configured : ch.configured = true) (path : pathValid s = true) :
    ∃ as, start c s = .next ((s.setChan c { ch with enable := true, dmaPos := 0 }).log as) ∧
      fieldsWritten as = [.enable c] ∧ .mask ∉ as ∧ .unmask ∉ as := by
  obtain ⟨as, heq, written⟩ := startedState_eq hc
  have runs : start c s = .next (startedState c s) :=
    start_eq_next.2 ⟨ch, hc, .inr ⟨stopped, path, configured, by simp [acknowledged], rfl⟩⟩
  exact ⟨as, heq ▸ runs, written, mask_notMem_of_regWrites (fs := [(.enable c, 1)])
    (s := s.modChan c fun ch => { ch with dmaPos := 0 }) (congrArg State.trace heq)⟩

/-- The state after the first arm of channel `c`, which was `ch`, with buffer `k`, which is `b` (R156). -/
def firstArmed (c k : Nat) (ch : Channel) (b : Buffer) (as : List Access) (s : State) : State :=
  { s with
    chans := s.chans.set c (armedChannel s.cfg b ch)
    pool := { s.pool with armed := some k }
    irq := { s.irq with masked := maskAfter s }
    bringup := .armed
    trace := s.trace ++ as ++ [.armedSet (some k)]
    ret := .void }

section
variable {s : State} {c k : Nat} (process : s.irq.ctx = .process) (source : s.bringup = .streamingCommand)
  (noError : s.err = none) (hk : k < nPool)
include process source noError hk

theorem exec_brgArm_of_noPool (noPool : s.pool.allocated = false) :
    exec (.brgArm c k) s = .fault .poolNotAllocated := by
  refine (bringupFrom_of process source noError _).trans ?_
  rw [withBuf, ifIndexed_of hk, noPool, if_neg (by decide)]

/-- `BRG_ARM` looks at the buffer and the handler before the channel (R156). -/
theorem exec_brgArm_of_pool {b : Buffer} (ha : s.pool.allocated = true) (hb : s.pool.bufs[k]? = some b) :
    exec (.brgArm c k) s =
      if !b.encoded then .fault .bufferNotEncoded
      else if !s.irq.attached then .fault .handlerNotAttached
      else andThen (configure c k s) fun s => andThen (start c s) fun s =>
        .next ((((s.setArmed (some k)).log [.armedSet (some k)]).setBringup .armed).setRet .void) :=
  (bringupFrom_of process source noError _).trans (withBuf_of hk ha hb _)

/-- The first arm (R156): the configuration, with its bracket, and then the start. -/
theorem exec_brgArm {b : Buffer} {ch : Channel} (ha : s.pool.allocated = true) (hb : s.pool.bufs[k]? = some b)
    (encoded : b.encoded = true) (attached : s.irq.attached = true) (hc : s.chans[c]? = some ch)
    (stopped : ch.enable = false) (acknowledged : ch.irqPending = false) (idle : s.producer.encoding ≠ some k)
    (path : pathValid s = true) :
    ∃ as bs, exec (.brgArm c k) s = .next (firstArmed c k ch b (as ++ bs) s) ∧
      (s.cfg.hwAtomicRegUpdate = true →
        fieldsWritten as = [.src c, .dst c, .len c, .ctrl c] ∧ .mask ∉ as ∧ .unmask ∉ as) ∧
      (s.cfg.hwAtomicRegUpdate = false → ∃ mid, as = .mask :: mid ++ [.unmask] ∧
        fieldsWritten mid = [.src c, .dst c, .len c, .ctrl c]) ∧
      fieldsWritten bs = [.enable c] ∧ .mask ∉ bs ∧ .unmask ∉ bs := by
  obtain ⟨as, configured, atomic, notAtomic⟩ := configuredState_trace process hc b
  have configures := configure_eq_next.2 ⟨ch, b, hc, hk, ha, hb, stopped, idle, encoded, configured.symm⟩
  obtain ⟨hlt, -⟩ := List.getElem?_eq_some_iff.1 hc
  obtain ⟨bs, starts, written, unmasked⟩ := start_of
    (s := ((s.setMasked (maskAfter s)).setChan c (configuredChannel s.cfg b ch)).log as) (List.getElem?_set_self hlt)
    stopped acknowledged rfl path
  refine ⟨as, bs, ?_, atomic, notAtomic, written, unmasked⟩
  rw [exec_brgArm_of_pool process source noError hk ha hb, encoded, attached, configures, andThen_next, starts]
  simp [firstArmed, armedChannel, State.log, State.setChan, State.setMasked, State.setArmed, State.setBringup,
    State.setRet]

end

/-! ### `TEARDOWN` (R158, R250) -/

/-- The stops of a `TEARDOWN`, from the first channel of `post` to the last, clear their enable bits (R158, R189). -/
theorem stopAll_of_append {s : State} {pre post : List Channel} (h : s.chans = pre ++ post) :
    ∃ as, stopAll pre.length post.length s =
        .next (({ s with chans := pre ++ post.map fun ch => { ch with enable := false } } : State).log as) ∧
      fieldsWritten as = (List.range' pre.length post.length).map RegField.enable := by
  induction post generalizing pre s with
  | nil => exact ⟨[], by simp [stopAll, State.log, ← h], rfl⟩
  | cons ch post ih =>
    have first : stop pre.length s =
        .next ((s.setChan pre.length { ch with enable := false }).log (regAccesses (.enable pre.length) 0 s)) :=
      stop_eq_next.2 ⟨ch, by simp [h], rfl⟩
    obtain ⟨as, others, written⟩ := ih (pre := pre ++ [{ ch with enable := false }])
      (s := (s.setChan pre.length { ch with enable := false }).log (regAccesses (.enable pre.length) 0 s)) (by simp [h])
    rw [List.length_append, List.length_singleton] at others written
    refine ⟨regAccesses (.enable pre.length) 0 s ++ as, ?_, ?_⟩
    · rw [List.length_cons, stopAll, first, andThen_next, others]
      simp [State.log, State.setChan]
    · rw [fieldsWritten_append, fieldsWritten_regAccesses, written]
      rfl

/-- The state after the pool is released, where it is safe (R185). -/
def poolReleased (s : State) : State :=
  { s with
    pool := { s.pool with allocated := false, bufs := if s.pool.allocated then [] else s.pool.bufs }
    txMem := if s.pool.allocated then [] else s.txMem }

theorem freePool_of {s : State} (safe : freeHazard s = false) : freePool s = .next (poolReleased s) := by
  refine freePool_eq_next.2 ⟨safe, ?_⟩
  cases ha : s.pool.allocated with
  | true => exact .inr ⟨rfl, by simp [poolReleased, ha]⟩
  | false =>
    refine .inl ⟨rfl, ?_⟩
    rw [poolReleased, ha, if_neg Bool.false_ne_true, if_neg Bool.false_ne_true, ← ha]

/-- The state after a `TEARDOWN` with the accesses `as` (R158, R250). -/
def tornDown (as : List Access) (s : State) : State :=
  { s with
    producer := { s.producer with notes := [], thenPublish := none }
    chans := s.chans.map fun ch => { ch with enable := false, lost := false }
    irq := { s.irq with attached := false }
    pool := { (poolReleased s).pool with armed := none, pendingNext := none }
    txMem := (poolReleased s).txMem
    crc := { s.crc with clkDma := false, clkTcon := false }
    tcon := { s.tcon with known := .none, valid := false }
    bringup := .unconfigured
    err := none
    trace := s.trace ++ as
    ret := .void }

/-- `TEARDOWN` completes from every state of process context: after its stops nothing stands against the release of the
pool (R158, R266). -/
theorem exec_teardown {s : State} (process : s.irq.ctx = .process) :
    ∃ as, exec .teardown s = .next (tornDown as s) ∧
      fieldsWritten as = (List.range s.chans.length).map RegField.enable ++ [.clkDma, .clkTcon] := by
  obtain ⟨as, stops, enables⟩ := stopAll_of_append (s := s) (pre := []) rfl
  obtain ⟨u, hu⟩ : ∃ u, u = ({ s with chans := s.chans.map fun ch => { ch with enable := false } } : State).log as :=
    ⟨_, rfl⟩
  have stopped : stopAll 0 s.chans.length s = .next u := hu ▸ stops
  have safe : freeHazard (slotsCleared u) = false :=
    (freeHazard_eq_false_iff _).2 ⟨rfl, by simp [hu, slotsCleared], rfl⟩
  obtain ⟨bs, clocks, off⟩ := clocksOff_eq (poolReleased (slotsCleared u))
  refine ⟨as ++ [.armedSet none, .slotTake s.pool.pendingNext] ++ bs, ?_, ?_⟩
  · have rest := teardownRest_eq_next.2 ⟨_, freePool_of safe, rfl⟩
    refine (processOnly_of process _).trans ?_
    rw [stopped, andThen_next, rest, clocks, hu]
    simp [tornDown, pipelineEnded, forgetPipeline, poolReleased, slotsCleared, State.log, State.setRet,
      State.setBringup, State.setAttached, State.setArmed, State.setPending, State.forgetTiming, State.modCrc,
      State.modProducer, Function.comp_def]
  · rw [fieldsWritten_append, fieldsWritten_append, enables, off, List.range_eq_range']
    simp [fieldsWritten, Access.field?]

end Sys2Proof.Machine
end

section
/-! PROOFS of the statements of 42_timing_and_bringup. Those over all instructions rest on what an instruction can do to
the clocks, the timing and the bring-up state. -/

namespace Sys2Proof.Machine

/-! ### What an instruction can do to the clocks, the timing and the bring-up state -/

/-- The clock/reset controller, the timing controller and the bring-up state. -/
structure Control where
  crc : ClockReset
  tcon : TimingCtl
  bringup : Bringup

/-- The control part of a state. -/
def State.control (s : State) : Control := ⟨s.crc, s.tcon, s.bringup⟩

theorem pinWrite_control {w : Word} {s t : State} (h : pinWrite w s = .next t) : t.control = s.control := by
  obtain ⟨-, -, rfl⟩ := pinWrite_eq_next.1 h
  rfl

theorem emitWords_control {lo hi : Word} {s t : State} (h : emitWords lo hi s = .next t) : t.control = s.control :=
  emitWords_keeps (P := fun u => u.control = s.control) (fun hs hw => (pinWrite_control hw).trans hs) rfl h

theorem emitItems_control {items : List PanelItem} {s t : State} (h : emitItems items s = .next t) :
    t.control = s.control :=
  emitItems_keeps (P := fun u => u.control = s.control) (fun hs hw => (pinWrite_control hw).trans hs) rfl h

theorem stop_control {c : Nat} {s t : State} (h : stop c s = .next t) : t.control = s.control := by
  obtain ⟨ch, -, rfl⟩ := stop_eq_next.1 h
  rfl

theorem acknowledge_control {c : Nat} {s t : State} (h : acknowledge c s = .next t) : t.control = s.control := by
  obtain ⟨ch, -, rfl⟩ := acknowledge_eq_next.1 h
  rfl

theorem configure_control {c k : Nat} {s t : State} (h : configure c k s = .next t) : t.control = s.control := by
  obtain ⟨ch, b, hc, -, -, -, -, -, -, rfl⟩ := configure_eq_next.1 h
  obtain ⟨as, heq, -⟩ := configuredState_eq hc b
  rw [heq]
  rfl

theorem start_control {c : Nat} {s t : State} (h : start c s = .next t) : t.control = s.control := by
  obtain ⟨ch, hc, ⟨-, rfl⟩ | ⟨-, -, -, -, rfl⟩⟩ := start_eq_next.1 h
  · rfl
  · obtain ⟨as, heq, -⟩ := startedState_eq hc
    rw [heq]
    rfl

theorem rearm_control {c k : Nat} {s t : State} (h : rearm c k s = .next t) : t.control = s.control := by
  obtain ⟨u, v, hack, hconf, hstart⟩ := rearm_eq_next.1 h
  exact (start_control hstart).trans ((configure_control hconf).trans (acknowledge_control hack))

theorem freePool_control {s t : State} (h : freePool s = .next t) : t.control = s.control := by
  obtain ⟨-, ⟨-, rfl⟩ | ⟨-, rfl⟩⟩ := freePool_eq_next.1 h
  · rfl
  · rfl

/-- What an instruction can do to the control part, from `s` to `t`. -/
inductive ControlEffect (s t : State) : Instr → Prop
  | keeps (i : Instr) (h : t.control = s.control) : ControlEffect s t i
  /-- the clocks are turned on (R151) -/
  | clocks (source : s.bringup = .unconfigured)
    (h : t.control = { s.control with crc := ⟨true, true, false, false⟩, bringup := .clocksEnabled }) :
    ControlEffect s t .brgClocks
  /-- the pins are configured (R152) -/
  | pins (source : s.bringup = .clocksEnabled) (h : t.control = { s.control with bringup := .pinsConfigured }) :
    ControlEffect s t .brgPins
  /-- the timing is stored (R154) -/
  | timing (o : TimingOperand) (source : s.bringup = .pinsConfigured)
    (h : t.control = { s.control with tcon := ⟨s.cfg.timing, .all, true⟩, bringup := .timingConfigured }) :
    ControlEffect s t (.tconCfg o)
  /-- the panel is initialized (R155) -/
  | panel (o : PanelOperand) (source : s.bringup = .timingConfigured)
    (h : t.control = { s.control with bringup := .streamingCommand }) : ControlEffect s t (.brgInit o)
  /-- the first arm (R156) -/
  | arms (c k : Nat) (source : s.bringup = .streamingCommand)
    (h : t.control = { s.control with bringup := .armed }) : ControlEffect s t (.brgArm c k)
  /-- the pipeline ends (R158, R250) -/
  | ends (h : t.control = ⟨{ s.crc with clkDma := false, clkTcon := false },
    { s.tcon with known := .none, valid := false }, .unconfigured⟩) : ControlEffect s t .teardown

/-- An operation that returns to its caller after a part that leaves the control part. -/
theorem ControlEffect.of_returning {r : Ret} {o : Out} {s t : State} {i : Instr}
    (kept : ∀ u, o = .next u → u.control = s.control) (h : returning r o = .next t) : ControlEffect s t i := by
  obtain ⟨u, hu, rfl⟩ := returning_eq_next.1 h
  exact .keeps i (kept u hu)

/-- What every instruction can do to the control part. -/
theorem exec_controlEffect {i : Instr} {s t : State} (h : exec i s = .next t) : ControlEffect s t i := by
  cases i with
  | cmdLo v => exact .keeps _ (pinWrite_control h)
  | cmdHi v => exact .keeps _ (pinWrite_control h)
  | datLo v => exact .keeps _ (pinWrite_control h)
  | datHi v => exact .keeps _ (pinWrite_control h)
  | encCmd b => cases h; exact .keeps _ rfl
  | encPix p => cases h; exact .keeps _ rfl
  | decWord w => cases h; exact .keeps _ rfl
  | emitPair lo hi => exact .of_returning (fun _ => emitWords_control) h
  | encFrame k =>
    obtain ⟨e, rfl⟩ | ⟨b, -, -, rfl⟩ := execEncFrame_next h
    · exact .keeps _ rfl
    · exact .keeps _ rfl
  | brgClocks =>
    obtain ⟨process, source, noError, -⟩ := bringupFrom_eq_next.1 h
    obtain ⟨as, run, -⟩ := exec_brgClocks process source noError
    cases run.symm.trans h
    exact .clocks source rfl
  | brgPins =>
    obtain ⟨process, source, noError, -⟩ := bringupFrom_eq_next.1 h
    obtain ⟨as, run⟩ := exec_brgPins process source noError
    cases run.symm.trans h
    exact .pins source rfl
  | tconCfg o =>
    obtain ⟨source, ⟨e, rfl⟩ | ⟨-, -, rfl⟩⟩ := execTconCfg_next h
    · exact .keeps _ rfl
    · obtain ⟨as, writes, -⟩ := timingWrites_eq s.cfg.timing s
      rw [TimingOperand.record_eq, writes]
      exact .timing o source rfl
  | brgInit o =>
    obtain ⟨source, -, u, hu, rfl⟩ := execBrgInit_next h
    exact .panel o source (congrArg (fun x : Control => { x with bringup := .streamingCommand }) (emitItems_control hu))
  | brgArm c k =>
    obtain ⟨source, -, u, v, hconf, hstart, rfl⟩ := execBrgArm_next h
    exact .arms c k source (congrArg (fun x : Control => { x with bringup := .armed })
      ((start_control hstart).trans (configure_control hconf)))
  | teardown =>
    obtain ⟨process, -⟩ := processOnly_eq_next.1 h
    obtain ⟨as, run, -⟩ := exec_teardown process
    cases run.symm.trans h
    exact .ends rfl
  | poolAlloc =>
    obtain ⟨-, ⟨e, rfl⟩ | ⟨bs, -, -, -, -, rfl⟩⟩ := execPoolAlloc_next h
    · exact .keeps _ rfl
    · exact .keeps _ rfl
  | poolBuf k =>
    obtain ⟨-, -, b, -, ho⟩ := withBuf_eq_next.1 h
    cases ho
    exact .keeps _ rfl
  | poolFree => exact .of_returning (fun _ => freePool_control) (processOnly_eq_next.1 h).2
  | dmaConfigure c k => exact .of_returning (fun _ => configure_control) (handlerOnly_eq_next.1 h).2
  | dmaStart c => exact .of_returning (fun _ => start_control) h
  | dmaStop c => exact .of_returning (fun _ => stop_control) (processOnly_eq_next.1 h).2
  | dmaAck c => exact .of_returning (fun _ => acknowledge_control) h
  | dmaRearm c k => exact .of_returning (fun _ => rearm_control) (handlerOnly_eq_next.1 h).2
  | dmaXfer c =>
    obtain ⟨ch, w, u, -, -, -, -, hu, rfl⟩ := execDmaXfer_next h
    exact .keeps _ (pinWrite_control hu :)
  | publishNext k => obtain rfl := execPublishNext_next h; exact .keeps _ rfl
  | queryInflight => cases h; exact .keeps _ rfl
  | irqFrame c =>
    obtain ⟨same, ch, b, tr, -, -, -, -, -, -, rfl⟩ := execIrqFrame_next h
    exact .keeps _ rfl

namespace ControlEffect

variable {s t : State} {i : Instr}

/-- Who turns clocks and resets (R151). -/
theorem crc_writers (e : ControlEffect s t i) (hne : t.crc ≠ s.crc) :
    (i = .brgClocks ∧ t.crc = ⟨true, true, false, false⟩) ∨
      (i = .teardown ∧ t.crc = { s.crc with clkDma := false, clkTcon := false }) := by
  cases e with
  | clocks _ h => exact .inl ⟨rfl, congrArg Control.crc h⟩
  | ends h => exact .inr ⟨rfl, congrArg Control.crc h⟩
  | keeps _ h | pins _ h | timing _ _ h | panel _ _ h | arms _ _ _ h => exact absurd (congrArg Control.crc h) hne

/-- Who writes the timing configuration (R163). -/
theorem tcon_writers (e : ControlEffect s t i) (hne : t.tcon ≠ s.tcon) :
    (i = .teardown ∧ t.tcon = { s.tcon with known := .none, valid := false }) ∨
      ((∃ o, i = .tconCfg o) ∧ s.bringup = .pinsConfigured ∧ t.tcon = ⟨s.cfg.timing, .all, true⟩) := by
  cases e with
  | timing o source h => exact .inr ⟨⟨o, rfl⟩, source, congrArg Control.tcon h⟩
  | ends h => exact .inl ⟨rfl, congrArg Control.tcon h⟩
  | keeps _ h | clocks _ h | pins _ h | panel _ _ h | arms _ _ _ h => exact absurd (congrArg Control.tcon h) hne

/-- Who moves the bring-up state, and from where to where (R150, R159). -/
theorem bringup_writers (e : ControlEffect s t i) (hne : t.bringup ≠ s.bringup) :
    (i = .teardown ∧ t.bringup = .unconfigured) ∨ bringupEdge i = some (s.bringup, t.bringup) := by
  cases e with
  | keeps _ h => exact absurd (congrArg Control.bringup h) hne
  | ends h => exact .inl ⟨rfl, congrArg Control.bringup h⟩
  | clocks source h | pins source h | timing _ source h | panel _ source h | arms _ _ source h =>
    have target := congrArg Control.bringup h
    exact .inr (by rw [source, show t.bringup = _ from target]; rfl)

end ControlEffect

/-! ### The statements -/

/-- Settles O20: `exec_brgClocks`, and `ControlEffect.crc_writers` for every other instruction. -/
theorem clocksEnabled : Obligations.ClocksEnabled := by
  refine ⟨fun s process source noError => ?_, fun s t i h => (exec_controlEffect h).crc_writers⟩
  obtain ⟨as, run, written⟩ := exec_brgClocks process source noError
  exact ⟨_, run, rfl, rfl, rfl, ⟨as, rfl, written⟩, rfl⟩

end Sys2Proof.Machine

namespace Sys2Proof

/-- Settles O21: the pins of `exec_brgPins`, named as in `mem_namedPins_iff`. -/
theorem pinsConfigured : Obligations.PinsConfigured := by
  intro s process source noError
  obtain ⟨as, run⟩ := Machine.exec_brgPins process source noError
  refine ⟨_, run, rfl, rfl, rfl, List.length_mapIdx, fun p pin hp => ?_, rfl⟩
  simp only [Machine.pinsConfigured, List.getElem?_mapIdx, hp, Option.map_some, mem_namedPins_iff]

end Sys2Proof

namespace Sys2Proof.Machine

/-- Settles O22: the checks of `exec_tconCfg`, each in its case, and the check of the configuration before every step. -/
theorem timingConfigured : Obligations.TimingConfigured := by
  refine ⟨fun s o process source noError => ?_, fun s zero => ?_⟩
  · obtain ⟨as, run⟩ := exec_tconCfg o process source noError
    refine ⟨fun clocked released width height divisor => ?_, fun clocked released size => ?_, fun off => ?_⟩
    · have active := (Timing.activeOk_iff s.cfg.timing).2 ⟨width, height⟩
      rw [clocked, released, active, if_neg (by decide), if_neg (by decide), if_neg (Nat.ne_of_gt divisor)] at run
      exact ⟨_, run, rfl, rfl, rfl, rfl⟩
    · have inactive : s.cfg.timing.activeOk = false := by
        rw [← Bool.not_eq_true, Timing.activeOk_iff]
        exact not_and_or.2 size
      rw [clocked, released, inactive, if_neg (by decide), if_pos (by decide)] at run
      exact run
    · rw [if_pos (by simpa using off)] at run
      exact ⟨_, run⟩
  · obtain ⟨r, problem⟩ := configProblem_of_clkDiv zero
    exact ⟨r, step_refused problem⟩

/-- Settles O23: the state is `itemsEmitted` of the list, with the bring-up state moved on. -/
theorem panelInitIsEmitted : Obligations.PanelInitIsEmitted := by
  intro s o process source noError valid data hc
  refine ⟨_, exec_brgInit o process source noError valid ((pinMapOk_iff s.cfg).1 hc) data, rfl, rfl, rfl, rfl,
    fun it last => ?_, fun empty => ?_, rfl⟩
  · have nonempty : s.cfg.panelInit.isEmpty = false := by
      cases hl : s.cfg.panelInit with
      | nil => simp [hl] at last
      | cons x items => rfl
    simp [itemsEmitted, panelAfter, nonempty, last, PanelItem.lastWord, cmdValue]
  · rw [empty, itemsEmitted_nil]
    exact ⟨rfl, rfl⟩

/-- Settles O24: the guards of `exec_brgArm_of_pool` in their order, then `exec_brgArm`. -/
theorem firstArm : Obligations.FirstArm := by
  intro s c k process source noError hk
  refine ⟨exec_brgArm_of_noPool process source noError hk, fun b ha hb => ?_⟩
  have run := exec_brgArm_of_pool (c := c) process source noError hk ha hb
  refine ⟨fun notEncoded => ?_, fun encoded detached => ?_,
    fun ch encoded attached hc stopped acknowledged idle data valid clocked => ?_⟩
  · rw [run, notEncoded]
    rfl
  · rw [run, encoded, detached]
    rfl
  · have path : pathValid s = true := by simp [pathValid, data, valid, clocked]
    obtain ⟨as, bs, armed, atomic, notAtomic, starts, noMask, noUnmask⟩ :=
      exec_brgArm process source noError hk ha hb encoded attached hc stopped acknowledged idle path
    refine ⟨_, armed, rfl, rfl, rfl, rfl, fun hw => ?_, fun hw => ?_, rfl⟩
    · obtain ⟨configures, hmask, hunmask⟩ := atomic hw
      refine ⟨by simp [firstArmed, maskAfter, maskNeeded, hw], as ++ bs, rfl, ?_, ?_, ?_⟩
      · rw [fieldsWritten_append, configures, starts]
        rfl
      · simp [hmask, noMask]
      · simp [hunmask, noUnmask]
    · obtain ⟨mid, rfl, configures⟩ := notAtomic hw
      exact ⟨by simp [firstArmed, maskAfter, maskNeeded, hw, process], mid, bs, by simp [firstArmed], configures, starts⟩

/-- Settles O25: every edge is guarded by its source (`exec_of_bringupEdge`), and `ControlEffect.bringup_writers`. -/
theorem bringupOrderIsEnforced : Obligations.BringupOrderIsEnforced := by
  refine ⟨fun s i b b' edge other => ?_, fun s t i h => (exec_controlEffect h).bringup_writers⟩
  obtain ⟨o, run⟩ := exec_of_bringupEdge edge s
  rw [run]
  refine ⟨?_, fun process => bringupFrom_of_ne process other⟩
  cases hx : s.irq.ctx with
  | process => exact ⟨_, bringupFrom_of_ne hx other⟩
  | interrupt => exact ⟨_, bringupFrom_of_interrupt hx⟩

/-- Settles O26: every edge is guarded by the error record (`exec_of_bringupEdge`), which `tornDown` has empty. -/
theorem errorStopsBringup : Obligations.ErrorStopsBringup := by
  intro s process error
  refine ⟨fun i b b' edge source => ?_, ?_⟩
  · obtain ⟨o, run⟩ := exec_of_bringupEdge edge s
    exact run.trans (bringupFrom_of_error process source error)
  · obtain ⟨as, run, -⟩ := exec_teardown process
    exact ⟨_, run, rfl, rfl⟩

/-- Settles O27: the state is `tornDown`. -/
theorem teardownReleasesEverything : Obligations.TeardownReleasesEverything := by
  intro s process
  obtain ⟨as, run, written⟩ := exec_teardown process
  refine ⟨_, run, List.length_map _, fun c ch hc => ?_, rfl, rfl, rfl, rfl, rfl, fun allocated => ?_, rfl, rfl, rfl, rfl,
    rfl, ⟨as, rfl, written⟩, fun free => ?_, rfl⟩
  · exact ⟨{ ch with enable := false, lost := false }, by simp [tornDown, hc], rfl, rfl⟩
  · simp [tornDown, poolReleased, allocated]
  · simp [tornDown, poolReleased, free]

/-- Settles O28: `ControlEffect.tcon_writers`. -/
theorem timingIsConstant : Obligations.TimingIsConstant := by
  intro s t i h hne
  refine (exec_controlEffect h).tcon_writers hne |>.imp (fun ⟨hi, ends⟩ => ?_) fun ⟨hi, source, stores⟩ => ?_
  · rw [ends]
    exact ⟨hi, rfl, rfl⟩
  · rw [stores]
    exact ⟨hi, source, rfl, rfl⟩

end Sys2Proof.Machine
end

section
/-! SUPPORT for the statements of 43_pool_and_dma. What an instruction can do to the sources and the completion flags of
the channels. -/

namespace Sys2Proof.Machine

/-- What the swaps and the interrupt line are about: the source of a channel and its completion flag (10_state R28,
R22). -/
def Channel.signal (ch : Channel) : Word × Bool := (ch.src, ch.irqPending)

/-- The signals of every channel, in order. -/
def State.signals (s : State) : List (Word × Bool) := s.chans.map Channel.signal

theorem signals_map_fst (s : State) : s.signals.map (·.1) = s.chans.map (·.src) := by
  simp [State.signals, Channel.signal, Function.comp_def]

theorem getElem?_signals {s : State} {c : Nat} {ch : Channel} (hc : s.chans[c]? = some ch) :
    s.signals[c]? = some ch.signal := by
  simp [State.signals, hc]

/-- A channel that is replaced is replaced in the signals. -/
theorem signals_set (s : State) (c : Nat) (x : Channel) :
    (s.chans.set c x).map Channel.signal = s.signals.set c x.signal :=
  List.map_set

/-- A list is not changed by setting a place to what it holds. -/
theorem set_eq_of_getElem? {α : Type} {l : List α} {n : Nat} {x : α} (h : l[n]? = some x) : l.set n x = l := by
  obtain ⟨hlt, rfl⟩ := List.getElem?_eq_some_iff.1 h
  exact List.set_getElem_self hlt

/-- A channel replaced by one with its signal leaves the signals. -/
theorem signals_set_of_eq {s : State} {c : Nat} {ch x : Channel} (hc : s.chans[c]? = some ch)
    (same : x.signal = ch.signal) : (s.chans.set c x).map Channel.signal = s.signals := by
  rw [signals_set, same, set_eq_of_getElem? (getElem?_signals hc)]

/-- A channel that keeps its source leaves the sources. -/
theorem sources_set_of_eq {s : State} {c : Nat} {ch : Channel} (hc : s.chans[c]? = some ch) (p : Bool) :
    (s.signals.set c (ch.src, p)).map (·.1) = s.signals.map (·.1) := by
  rw [List.map_set]
  exact set_eq_of_getElem? (by simp [getElem?_signals hc, Channel.signal])

/-- Where the signals stay, a completion flag stays. -/
theorem flag_of_signals_eq {s t : State} {c : Nat} {ch ch' : Channel} (h : t.signals = s.signals)
    (hc : s.chans[c]? = some ch) (hc' : t.chans[c]? = some ch') : ch'.irqPending = ch.irqPending := by
  have same : some ch'.signal = some ch.signal :=
    (getElem?_signals hc').symm.trans ((congrArg (·[c]?) h).trans (getElem?_signals hc))
  exact congrArg Prod.snd (Option.some.inj same)

/-- Where the signal of one channel is replaced, a completion flag stays or is that channel's new one. -/
theorem flag_of_signals_set {s t : State} {c d : Nat} {ch ch' : Channel} {x : Word × Bool}
    (h : t.signals = s.signals.set d x) (hc : s.chans[c]? = some ch) (hc' : t.chans[c]? = some ch') :
    ch'.irqPending = ch.irqPending ∨ (d = c ∧ ch'.irqPending = x.2) := by
  have before := getElem?_signals hc
  have after := getElem?_signals hc'
  rw [h] at after
  by_cases here : d = c
  · obtain ⟨hlt, -⟩ := List.getElem?_eq_some_iff.1 before
    rw [here, List.getElem?_set_self hlt] at after
    exact .inr ⟨here, (congrArg Prod.snd (Option.some.inj after)).symm⟩
  · rw [List.getElem?_set_ne here, before] at after
    exact .inl (congrArg Prod.snd (Option.some.inj after)).symm

theorem pinWrite_signals {w : Word} {s t : State} (h : pinWrite w s = .next t) : t.signals = s.signals := by
  obtain ⟨-, -, rfl⟩ := pinWrite_eq_next.1 h
  rfl

theorem emitWords_signals {lo hi : Word} {s t : State} (h : emitWords lo hi s = .next t) : t.signals = s.signals :=
  emitWords_keeps (P := fun u => u.signals = s.signals) (fun hs hw => (pinWrite_signals hw).trans hs) rfl h

theorem emitItems_signals {items : List PanelItem} {s t : State} (h : emitItems items s = .next t) :
    t.signals = s.signals :=
  emitItems_keeps (P := fun u => u.signals = s.signals) (fun hs hw => (pinWrite_signals hw).trans hs) rfl h

theorem stop_signals {c : Nat} {s t : State} (h : stop c s = .next t) : t.signals = s.signals := by
  obtain ⟨ch, hc, rfl⟩ := stop_eq_next.1 h
  exact signals_set_of_eq hc rfl

theorem start_signals {c : Nat} {s t : State} (h : start c s = .next t) : t.signals = s.signals := by
  obtain ⟨ch, hc, ⟨-, rfl⟩ | ⟨-, -, -, -, rfl⟩⟩ := start_eq_next.1 h
  · rfl
  · obtain ⟨as, heq, -⟩ := startedState_eq hc
    rw [heq]
    exact signals_set_of_eq hc rfl

/-- An acknowledge clears the flag of its channel (R190). -/
theorem acknowledge_signals {c : Nat} {s t : State} (h : acknowledge c s = .next t) :
    ∃ ch, s.chans[c]? = some ch ∧ t.signals = s.signals.set c (ch.src, false) := by
  obtain ⟨ch, hc, rfl⟩ := acknowledge_eq_next.1 h
  exact ⟨ch, hc, signals_set s c _⟩

/-- A configuration gives its channel a source (R187). -/
theorem configure_signals {c k : Nat} {s t : State} (h : configure c k s = .next t) :
    ∃ ch w, s.chans[c]? = some ch ∧ t.signals = s.signals.set c (w, ch.irqPending) := by
  obtain ⟨ch, b, hc, -, -, -, -, -, -, rfl⟩ := configure_eq_next.1 h
  obtain ⟨as, heq, -⟩ := configuredState_eq hc b
  rw [heq]
  exact ⟨ch, _, hc, signals_set s c _⟩

theorem freePool_signals {s t : State} (h : freePool s = .next t) : t.signals = s.signals := by
  obtain ⟨-, ⟨-, rfl⟩ | ⟨-, rfl⟩⟩ := freePool_eq_next.1 h
  · rfl
  · rfl

/-- What an instruction can do to the signals, from `s` to `t`. -/
inductive SignalEffect (s t : State) : Instr → Prop
  | keeps (i : Instr) (h : t.signals = s.signals) : SignalEffect s t i
  /-- the engine moves the last word (R193) -/
  | completes (c : Nat) (ch : Channel) (found : s.chans[c]? = some ch) (running : ch.enable = true)
    (last : ch.dmaPos + 1 = ch.words) (h : t.signals = s.signals.set c (ch.src, true)) : SignalEffect s t (.dmaXfer c)
  /-- the completion is acknowledged (R190) -/
  | acknowledges (c : Nat) (ch : Channel) (found : s.chans[c]? = some ch)
    (h : t.signals = s.signals.set c (ch.src, false)) : SignalEffect s t (.dmaAck c)
  /-- a configuration, in the handler's context (R187, R267) -/
  | configures (c k : Nat) (ch : Channel) (w : Word) (interrupt : s.irq.ctx = .interrupt)
    (found : s.chans[c]? = some ch) (h : t.signals = s.signals.set c (w, ch.irqPending)) :
    SignalEffect s t (.dmaConfigure c k)
  /-- a re-arm, in the handler's context (R191, R267) -/
  | rearms (c k : Nat) (w : Word) (interrupt : s.irq.ctx = .interrupt) (h : t.signals = s.signals.set c (w, false)) :
    SignalEffect s t (.dmaRearm c k)
  /-- the first arm (42_timing_and_bringup R156) -/
  | arms (c k : Nat) (ch : Channel) (w : Word) (source : s.bringup = .streamingCommand)
    (found : s.chans[c]? = some ch) (h : t.signals = s.signals.set c (w, ch.irqPending)) :
    SignalEffect s t (.brgArm c k)
  /-- the handler re-arms its channel (60_exceptions R222) -/
  | handles (c : Nat) (w : Word) (h : t.signals = s.signals.set c (w, false)) : SignalEffect s t (.irqFrame c)

/-- An operation that returns to its caller after a part that leaves the signals. -/
theorem SignalEffect.of_returning {r : Ret} {o : Out} {s t : State} {i : Instr}
    (kept : ∀ u, o = .next u → u.signals = s.signals) (h : returning r o = .next t) : SignalEffect s t i := by
  obtain ⟨u, hu, rfl⟩ := returning_eq_next.1 h
  exact .keeps i (kept u hu)

theorem brgArm_signalEffect {c k : Nat} {s t : State} (h : execBrgArm c k s = .next t) :
    SignalEffect s t (.brgArm c k) := by
  obtain ⟨source, -, u, v, hconf, hstart, rfl⟩ := execBrgArm_next h
  obtain ⟨ch, w, hc, hu⟩ := configure_signals hconf
  exact .arms c k ch w source hc ((start_signals hstart).trans hu)

theorem teardown_signalEffect {s t : State} (h : execTeardown s = .next t) : SignalEffect s t .teardown := by
  obtain ⟨process, -⟩ := processOnly_eq_next.1 h
  obtain ⟨as, run, -⟩ := exec_teardown process
  cases run.symm.trans h
  exact .keeps _ (by simp [tornDown, State.signals, Channel.signal, Function.comp_def])

theorem dmaRearm_signalEffect {c k : Nat} {s t : State} (h : execDmaRearm c k s = .next t) :
    SignalEffect s t (.dmaRearm c k) := by
  obtain ⟨interrupt, ho⟩ := handlerOnly_eq_next.1 h
  obtain ⟨u, hu, rfl⟩ := returning_eq_next.1 ho
  obtain ⟨ch, b, as, -, -, -, -, -, rfl⟩ := rearm_next interrupt hu
  exact .rearms c k _ interrupt (signals_set s c _)

/-- One word more: the flag is set at the last one (R192, R193). -/
theorem dmaXfer_signalEffect {c : Nat} {s t : State} (h : execDmaXfer c s = .next t) :
    SignalEffect s t (.dmaXfer c) := by
  obtain ⟨ch, w, u, hc, running, -, -, hu, rfl⟩ := execDmaXfer_next h
  obtain ⟨-, -, rfl⟩ := pinWrite_eq_next.1 hu
  by_cases last : ch.dmaPos + 1 = ch.words
  · refine .completes c ch hc running last ((signals_set s c _).trans ?_)
    rw [channelAfterWord, if_pos last]
    rfl
  · refine .keeps _ (signals_set_of_eq hc ?_)
    rw [channelAfterWord, if_neg last]
    rfl

theorem irqFrame_signalEffect {c : Nat} {s t : State} (h : execIrqFrame c s = .next t) :
    SignalEffect s t (.irqFrame c) := by
  obtain ⟨same, ch, b, tr, -, -, -, -, -, -, rfl⟩ := execIrqFrame_next h
  exact .handles c _ (signals_set s c _)

/-- What every instruction can do to the signals. -/
theorem exec_signalEffect {i : Instr} {s t : State} (h : exec i s = .next t) : SignalEffect s t i := by
  cases i with
  | cmdLo v => exact .keeps _ (pinWrite_signals h)
  | cmdHi v => exact .keeps _ (pinWrite_signals h)
  | datLo v => exact .keeps _ (pinWrite_signals h)
  | datHi v => exact .keeps _ (pinWrite_signals h)
  | encCmd b => cases h; exact .keeps _ rfl
  | encPix p => cases h; exact .keeps _ rfl
  | decWord w => cases h; exact .keeps _ rfl
  | emitPair lo hi => exact .of_returning (fun _ => emitWords_signals) h
  | encFrame k =>
    obtain ⟨e, rfl⟩ | ⟨b, -, -, rfl⟩ := execEncFrame_next h
    · exact .keeps _ rfl
    · exact .keeps _ rfl
  | brgClocks =>
    obtain ⟨process, source, noError, -⟩ := bringupFrom_eq_next.1 h
    obtain ⟨as, run, -⟩ := exec_brgClocks process source noError
    cases run.symm.trans h
    exact .keeps _ rfl
  | brgPins =>
    obtain ⟨process, source, noError, -⟩ := bringupFrom_eq_next.1 h
    obtain ⟨as, run⟩ := exec_brgPins process source noError
    cases run.symm.trans h
    exact .keeps _ rfl
  | tconCfg o =>
    obtain ⟨-, ⟨e, rfl⟩ | ⟨-, -, rfl⟩⟩ := execTconCfg_next h
    · exact .keeps _ rfl
    · obtain ⟨as, writes, -⟩ := timingWrites_eq (o.record s.cfg) s
      rw [writes]
      exact .keeps _ rfl
  | brgInit o =>
    obtain ⟨-, -, u, hu, rfl⟩ := execBrgInit_next h
    exact .keeps _ (emitItems_signals hu :)
  | brgArm c k => exact brgArm_signalEffect h
  | teardown => exact teardown_signalEffect h
  | poolAlloc =>
    obtain ⟨-, ⟨e, rfl⟩ | ⟨bs, -, -, -, -, rfl⟩⟩ := execPoolAlloc_next h
    · exact .keeps _ rfl
    · exact .keeps _ rfl
  | poolBuf k =>
    obtain ⟨-, -, b, -, ho⟩ := withBuf_eq_next.1 h
    cases ho
    exact .keeps _ rfl
  | poolFree => exact .of_returning (fun _ => freePool_signals) (processOnly_eq_next.1 h).2
  | dmaConfigure c k =>
    obtain ⟨interrupt, ho⟩ := handlerOnly_eq_next.1 h
    obtain ⟨u, hu, rfl⟩ := returning_eq_next.1 ho
    obtain ⟨ch, w, hc, hsignals⟩ := configure_signals hu
    exact .configures c k ch w interrupt hc hsignals
  | dmaStart c => exact .of_returning (fun _ => start_signals) h
  | dmaStop c => exact .of_returning (fun _ => stop_signals) (processOnly_eq_next.1 h).2
  | dmaAck c =>
    obtain ⟨u, hu, rfl⟩ := returning_eq_next.1 h
    obtain ⟨ch, hc, hsignals⟩ := acknowledge_signals hu
    exact .acknowledges c ch hc hsignals
  | dmaRearm c k => exact dmaRearm_signalEffect h
  | dmaXfer c => exact dmaXfer_signalEffect h
  | publishNext k => obtain rfl := execPublishNext_next h; exact .keeps _ rfl
  | queryInflight => cases h; exact .keeps _ rfl
  | irqFrame c => exact irqFrame_signalEffect h

namespace SignalEffect

variable {s t : State} {i : Instr}

/-- Who writes the source of a channel (R226, R267): the handler, the first arm, and an operation in its context. -/
theorem source_writers (e : SignalEffect s t i) (hne : t.chans.map (·.src) ≠ s.chans.map (·.src)) :
    (∃ c, i = .irqFrame c) ∨ s.bringup = .streamingCommand ∨ s.irq.ctx = .interrupt := by
  rw [← signals_map_fst, ← signals_map_fst] at hne
  cases e with
  | keeps _ h => exact absurd (congrArg (List.map (·.1)) h) hne
  | completes c ch found _ _ h => exact absurd (h ▸ sources_set_of_eq found _) hne
  | acknowledges c ch found h => exact absurd (h ▸ sources_set_of_eq found _) hne
  | configures _ _ _ _ interrupt => exact .inr (.inr interrupt)
  | rearms _ _ _ interrupt => exact .inr (.inr interrupt)
  | arms _ _ _ _ source => exact .inr (.inl source)
  | handles c => exact .inl ⟨c, rfl⟩

/-- What becomes of a completion flag (10_state R22): it stays, or the engine's step that moves the last word sets
it, or an acknowledge, a re-arm or the handler of its channel clears it. -/
theorem flag_cases (e : SignalEffect s t i) {c : Nat} {ch ch' : Channel} (hc : s.chans[c]? = some ch)
    (hc' : t.chans[c]? = some ch') :
    ch'.irqPending = ch.irqPending ∨
      (i = .dmaXfer c ∧ ch.enable = true ∧ ch.dmaPos + 1 = ch.words ∧ ch'.irqPending = true) ∨
      ((i = .dmaAck c ∨ (∃ k, i = .dmaRearm c k) ∨ i = .irqFrame c) ∧ ch'.irqPending = false) := by
  cases e with
  | keeps _ h => exact .inl (flag_of_signals_eq h hc hc')
  | completes d x found running last h =>
    refine (flag_of_signals_set h hc hc').imp_right fun ⟨here, set⟩ => .inl ?_
    subst here
    obtain rfl := Option.some.inj (hc.symm.trans found)
    exact ⟨rfl, running, last, set⟩
  | acknowledges d x found h =>
    exact (flag_of_signals_set h hc hc').imp_right fun ⟨here, clear⟩ => .inr ⟨.inl (here ▸ rfl), clear⟩
  | configures d k x w _ found h | arms d k x w _ found h =>
    refine .inl ((flag_of_signals_set h hc hc').elim id fun ⟨here, same⟩ => ?_)
    subst here
    obtain rfl := Option.some.inj (hc.symm.trans found)
    exact same
  | rearms d k w _ h =>
    exact (flag_of_signals_set h hc hc').imp_right fun ⟨here, clear⟩ => .inr ⟨.inr (.inl ⟨k, here ▸ rfl⟩), clear⟩
  | handles d w h =>
    exact (flag_of_signals_set h hc hc').imp_right fun ⟨here, clear⟩ => .inr ⟨.inr (.inr (here ▸ rfl)), clear⟩

end SignalEffect

end Sys2Proof.Machine
end

section
/-! PROOF of the statement of 43_pool_and_dma about the frame boundary: what a step can do to the armed index and the
sources. -/

namespace Sys2Proof.Machine


/-- What the engine streams from: the armed index and the source of every channel (10_state R24, R28). -/
def State.aim (s : State) : Option Nat × List Word := (s.pool.armed, s.chans.map (·.src))

/-- Where nothing is armed anew and no signal changes, the aim stays. -/
theorem aim_of_signals {s t : State} (armed : t.pool.armed = s.pool.armed) (signals : t.signals = s.signals) :
    t.aim = s.aim := by
  rw [State.aim, State.aim, armed, ← signals_map_fst, ← signals_map_fst, signals]

/-- Within `Armed` and in process context only the handler changes the aim (43_pool_and_dma R195, 70_reset_and_hazards
R267). -/
theorem exec_aim {i : Instr} {s t : State} (h : exec i s = .next t) (process : s.irq.ctx = .process)
    (armed : s.bringup = .armed) (stays : t.bringup = .armed) : t.aim = s.aim ∨ ∃ c, i = .irqFrame c := by
  by_cases hsource : t.chans.map (·.src) = s.chans.map (·.src)
  · by_cases harmed : t.pool.armed = s.pool.armed
    · exact .inl (Prod.ext harmed hsource)
    · obtain ⟨c, k, -, streaming, -⟩ | ⟨c, hi, -⟩ | ⟨rfl, -⟩ := (exec_effect h).armed_writers harmed
      · exact absurd (streaming.symm.trans armed) (by decide)
      · exact .inr ⟨c, hi⟩
      · obtain ⟨as, run, -⟩ := exec_teardown process
        cases run.symm.trans h
        cases stays
  · obtain hi | streaming | interrupt := (exec_signalEffect h).source_writers hsource
    · exact .inr hi
    · exact absurd (streaming.symm.trans armed) (by decide)
    · exact absurd (interrupt.symm.trans process) (by decide)

/-- A channel changed in other fields keeps its source. -/
theorem sources_modChan (s : State) (c : Nat) {f : Channel → Channel} (same : ∀ ch, (f ch).src = ch.src) :
    (s.modChan c f).chans.map (·.src) = s.chans.map (·.src) := by
  refine List.ext_getElem? fun n => ?_
  rw [State.modChan_chans, List.getElem?_map, List.getElem?_map, List.getElem?_modify]
  cases s.chans[n]? with
  | none => rfl
  | some ch => by_cases here : c = n <;> simp [here, same]

/-- A write-back of an enable bit or a completion flag changes no aim. -/
theorem writeHalf_aim (w : HalfWrite) (s : State) : (writeHalf w s).aim = s.aim := by
  have armed : (writeHalf w s).pool.armed = s.pool.armed := congrArg (·.pool.armed) (writeHalf_holdings w s)
  refine Prod.ext armed ?_
  show (setField w.op.field 0 s).chans.map (·.src) = s.chans.map (·.src)
  cases w.op with
  | dmaStop c => exact sources_modChan s c fun _ => rfl
  | dmaAck c => exact sources_modChan s c fun _ => rfl
  | teardown => exact sources_modChan s 0 fun _ => rfl

/-- What is left of an operation begun by its read half changes no aim, or ends the pipeline (20_memory R53 (d)). -/
theorem finishTorn_aim {w : HalfWrite} {s t : State} (h : finishTorn w s = .next t) (stays : t.bringup = .armed) :
    t.aim = s.aim := by
  by_cases hw : w.op = .teardown
  · rw [finishTorn_teardown hw] at h
    obtain ⟨u, -, hrest⟩ := andThen_eq_next.1 h
    obtain ⟨v, -, rfl⟩ := teardownRest_eq_next.1 hrest
    cases stays
  · rw [finishTorn_of hw] at h
    cases h
    exact writeHalf_aim w s

/-- `ENC_FRAME` changes no aim. -/
theorem encFrame_aim {k : Nat} {s t : State} (h : execEncFrame k s = .next t) : t.aim = s.aim := by
  obtain ⟨e, rfl⟩ | ⟨b, -, -, rfl⟩ := execEncFrame_next h
  · rfl
  · rfl

/-- A step of the producer by itself changes no aim, or ends the pipeline. -/
theorem producerWork_aim {s t : State} (h : producerWork s = .next t) (stays : t.bringup = .armed) :
    t.aim = s.aim := by
  unfold producerWork at h
  split at h
  · obtain ⟨k, b, p, -, -, -, rfl⟩ := encodeStep_next h
    rfl
  · split at h
    · obtain rfl := execPublishNext_next h
      rfl
    · split at h
      · exact finishTorn_aim h stays
      · unfold nextNote at h
        split at h
        · split at h
          · obtain ⟨u, hu, hlast⟩ := andThen_eq_next.1 h
            cases hlast
            exact (encFrame_aim hu :)
          · cases h
        · cases h

/-- A step within `Armed` that changes the aim is a handler run (43_pool_and_dma R195). -/
theorem step_of_aim_ne {s t : State} (h : step s = .next t) (process : s.irq.ctx = .process)
    (armed : s.bringup = .armed) (stays : t.bringup = .armed) (changed : t.aim ≠ s.aim) :
    ∃ c q, execIrqFrame c { s with inbox := q } = .next t := by
  obtain ⟨-, move⟩ := step_move h
  cases move with
  | runs i q _ hrun =>
    obtain same | ⟨c, rfl⟩ := exec_aim hrun process armed stays
    · exact absurd same changed
    · exact ⟨c, q, hrun⟩
  | works q hwork => exact absurd (producerWork_aim hwork stays) changed
  | begins op q _ hbegin =>
    obtain ⟨-, -, rfl⟩ := beginTorn_eq_next.1 hbegin
    exact absurd rfl changed
  | writesPixel i p q hwrite =>
    unfold collaboratorWrites at hwrite
    split at hwrite
    · cases hwrite; exact absurd rfl changed
    · cases hwrite
  | handsOver base bytes q hhand =>
    unfold collaboratorHandsOver at hhand
    split at hhand
    · cases hhand; exact absurd rfl changed
    · cases hhand
  | attaches q ho | notifies _ _ q ho | answers _ q ho => cases ho; exact absurd rfl changed
  | rests same => exact absurd (congrArg State.aim same) changed

/-- A handler run is entered on a pending completion (60_exceptions R221). -/
theorem irqFrame_pending {c : Nat} {s t : State} (h : execIrqFrame c s = .next t) :
    ∃ ch, s.chans[c]? = some ch ∧ ch.irqPending = true := by
  obtain ⟨ch, hc, ho⟩ := withChan_eq_next.1 h
  refine ⟨ch, hc, ?_⟩
  split at ho
  · cases ho
  · split at ho
    · cases ho
    · rename_i pending
      simpa using pending

/-- A handler run that finds the slot empty arms the same buffer again and changes no source (R194, R222). -/
theorem sources_of_rearmed {s : State} {c same : Nat} {ch : Channel} {b : Buffer} (inv : Inv s)
    (hc : s.chans[c]? = some ch) (armed : s.pool.armed = some same) (hb : s.pool.bufs[same]? = some b) :
    (s.chans.set c (armedChannel s.cfg b ch.acknowledged)).map (·.src) = s.chans.map (·.src) := by
  obtain ⟨x, hx, -, sources⟩ := inv.armed.source same armed
  obtain rfl := Option.some.inj (hb.symm.trans hx)
  obtain ⟨-, source⟩ := sources ch (List.mem_of_getElem? hc)
  have kept : (armedChannel s.cfg b ch.acknowledged).src = ch.src := by
    simp [armedChannel, configuredChannel, ← source]
  rw [List.map_set]
  exact set_eq_of_getElem? (by simp [hc, kept])

/-- Settles O47: the step is a handler run (`step_of_aim_ne`), and with an empty slot it would change nothing
(`sources_of_rearmed`). -/
theorem swapOnlyAtFrameBoundary : Obligations.SwapOnlyAtFrameBoundary := by
  intro s t inv hstep armed stays changed
  have aimed : t.aim ≠ s.aim := fun same => changed.elim (· (congrArg Prod.fst same)) (· (congrArg Prod.snd same))
  obtain ⟨c, q, hrun⟩ := step_of_aim_ne hstep inv.context armed stays aimed
  obtain ⟨ch, hc, pending⟩ := irqFrame_pending hrun
  obtain ⟨same, ch', b, tr, harmed, hc', hb, -, -, -, rfl⟩ := execIrqFrame_next hrun
  obtain rfl := Option.some.inj (hc.symm.trans hc')
  have stopped : ch.enable = false := by
    by_contra running
    have acknowledged := (inv.channel ch (List.mem_of_getElem? hc)).acknowledged (by simpa using running)
    exact absurd (acknowledged.symm.trans pending) (by decide)
  obtain ⟨hlt, -⟩ := List.getElem?_eq_some_iff.1 hc
  cases hslot : s.pool.pendingNext with
  | none =>
    have rearmed : nextArmed { s with inbox := q } same = same := by rw [nextArmed, hslot]; rfl
    rw [rearmed] at hb aimed
    exact absurd (Prod.ext harmed.symm (sources_of_rearmed inv hc harmed hb)) aimed
  | some k =>
    have published : nextArmed { s with inbox := q } same = k := by rw [nextArmed, hslot]; rfl
    rw [published] at hb ⊢
    obtain ⟨-, -, reach⟩ := inv.pool.shape b (List.mem_of_getElem? hb)
    exact ⟨c, ch, _, k, b, hc, pending, stopped, rfl, rfl, rfl, hb, List.getElem?_set_self hlt, toNat_physBase reach,
      rfl, rfl, rfl⟩

end Sys2Proof.Machine
end

section
/-! SUPPORT for the statements of 43_pool_and_dma, part 1: what the allocation, the release and the publish are, each in
its cases. -/

namespace Sys2Proof.Machine

/-! ### The allocation (R180, R181) -/

/-- The buffers of eight successes: the regions at the logical bases `l` and the physical bases `p`, none encoded. -/
def regionsAt (l p : Nat → Nat) : List Buffer := (List.range nPool).map fun k => ⟨l k, p k, bufWords, false⟩

/-- A missing answer is a failure; one that is there is the answer. -/
theorem allocAnswer_of {draws : List AllocDraw} {k : Nat} {x : AllocDraw} (h : draws[k]? = some x) :
    allocAnswer draws k = x := by
  rw [allocAnswer, List.getD_eq_getElem?_getD, h]
  rfl

/-- Eight successes are answered with their regions. -/
theorem allocRegions_of_successes {draws : List AllocDraw} {l p : Nat → Nat}
    (h : ∀ k < nPool, draws[k]? = some (some (l k, p k))) : allocRegions draws 0 nPool = .ok (regionsAt l p) := by
  cases hr : allocRegions draws 0 nPool with
  | error k =>
    obtain ⟨-, hk, failed, -⟩ := allocRegions_eq_error hr
    exact absurd ((allocAnswer_of (h k (by omega))).symm.trans failed) nofun
  | ok bs =>
    obtain ⟨length, each⟩ := allocRegions_eq_ok hr
    refine congrArg Except.ok (List.ext_getElem? fun k => ?_)
    by_cases hk : k < nPool
    · obtain ⟨l', p', answer, found⟩ := each k hk
      rw [Nat.zero_add, allocAnswer_of (h k hk)] at answer
      cases answer
      rw [found, regionsAt, List.getElem?_map, List.getElem?_range hk]
      rfl
    · rw [List.getElem?_eq_none (by omega), List.getElem?_eq_none (by simpa [regionsAt] using hk)]

/-- The first failure among the answers is the one named. -/
theorem allocRegions_of_failure {draws : List AllocDraw} {k : Nat} (hk : k < nPool)
    (before : ∀ j < k, ∃ x, draws[j]? = some (some x)) (failed : draws[k]? = some none) :
    allocRegions draws 0 nPool = .error k := by
  cases hr : allocRegions draws 0 nPool with
  | ok bs =>
    obtain ⟨-, each⟩ := allocRegions_eq_ok hr
    obtain ⟨l, p, answer, -⟩ := each k hk
    rw [Nat.zero_add, allocAnswer_of failed] at answer
    cases answer
  | error i =>
    obtain ⟨-, -, first, successes⟩ := allocRegions_eq_error hr
    obtain earlier | rfl | later := Nat.lt_trichotomy i k
    · obtain ⟨x, hx⟩ := before i earlier
      exact absurd ((allocAnswer_of hx).symm.trans first) nofun
    · rfl
    · exact absurd (allocAnswer_of failed) (successes k (Nat.zero_le k) later)

theorem frameBytes_eq : frameBytes = 614408 := rfl

/-- The bases of the regions are aligned (R51). -/
theorem aligned_regionsAt_iff (l p : Nat → Nat) :
    (regionsAt l p).all Buffer.aligned = true ↔ ∀ k < nPool, l k % 4 = 0 ∧ p k % 4 = 0 := by
  simp [regionsAt, Buffer.aligned]

/-- A region in reach ends within 32 bits (R52, R187). -/
theorem inReach_iff (b : Buffer) : b.inReach = true ↔ b.physBase + 614408 ≤ 4294967296 := by
  have bytes := frameBytes_eq
  rw [Buffer.inReach, decide_eq_true_iff]
  omega

theorem inReach_regionsAt_iff (l p : Nat → Nat) :
    (regionsAt l p).all Buffer.inReach = true ↔ ∀ k < nPool, p k + 614408 ≤ 4294967296 := by
  rw [List.all_eq_true]
  simp only [inReach_iff, regionsAt, List.mem_map, List.mem_range, forall_exists_index, and_imp,
    forall_apply_eq_imp_iff₂]

/-- The regions share no byte, by either of their addresses (R180). -/
theorem allApart_regionsAt_iff (l p : Nat → Nat) :
    allApart (regionsAt l p) = true ↔ ∀ i j, i < j → j < nPool →
      (p i + 614408 ≤ p j ∨ p j + 614408 ≤ p i) ∧ (l i + 614408 ≤ l j ∨ l j + 614408 ≤ l i) := by
  rw [allApart_iff_pairwise, regionsAt, List.pairwise_map, List.pairwise_iff_getElem]
  simp only [List.length_range, List.getElem_range, buffersApart, Bool.and_eq_true, decide_eq_true_eq]
  simp only [frameBytes_eq]
  exact ⟨fun h i j hij hj => h i j (hij.trans hj) hj hij, fun h i j _ hj hij => h i j hij hj⟩

section
variable {s : State} (process : s.irq.ctx = .process)
include process

theorem exec_poolAlloc_of_pool (ha : s.pool.allocated = true) : exec .poolAlloc s = .fault .poolAllocated :=
  (processOnly_of process _).trans (if_pos ha)

/-- A failed allocation leaves nothing allocated (R180, R181). -/
theorem exec_poolAlloc_of_failure {k : Nat} (free : s.pool.allocated = false)
    (h : allocRegions s.allocDraws 0 nPool = .error k) :
    exec .poolAlloc s =
      raiseError (.allocationFailure k) { s with pool := { s.pool with bufs := [] }, txMem := [] } := by
  refine (processOnly_of process _).trans ?_
  rw [free, h, if_neg Bool.false_ne_true]

/-- Eight regions are checked in the order of R51, R180 and R52 before the pool is allocated. -/
theorem exec_poolAlloc_of_regions {bs : List Buffer} (free : s.pool.allocated = false)
    (h : allocRegions s.allocDraws 0 nPool = .ok bs) :
    exec .poolAlloc s =
      if !bs.all Buffer.aligned then .refused .misalignedBase
      else if !allApart bs then .refused .overlappingRegions
      else if !bs.all Buffer.inReach then .refused .regionOutOfReach
      else .next ({ s with pool := { s.pool with allocated := true, bufs := bs }, txMem := [] }.setRet .void) := by
  refine (processOnly_of process _).trans ?_
  rw [free, h, if_neg Bool.false_ne_true]

end

/-! ### The release (R185, R266) -/

/-- With something armed, running or attached a release is a hazard (R266). -/
theorem freeHazard_iff (s : State) :
    freeHazard s = true ↔ s.pool.armed ≠ none ∨ (∃ ch ∈ s.chans, ch.enable = true) ∨ s.irq.attached = true := by
  simp [freeHazard, Option.isSome_iff_ne_none, or_assoc]

/-- The release in process context: the fault of the hazard, whether or not a pool is allocated, or the end of
`poolReleased`. -/
theorem exec_poolFree {s : State} (process : s.irq.ctx = .process) :
    exec .poolFree s = if freeHazard s then .fault .freeWhileInUse else .next ((poolReleased s).setRet .void) := by
  refine (processOnly_of process _).trans ?_
  cases hazard : freeHazard s with
  | true => rw [freePool, hazard]; rfl
  | false => rw [freePool_of hazard]; rfl

/-! ### The buffers that may be filled next (R199) -/

/-- A list without repetition loses at most one element when those in a slot are left out. -/
theorem length_le_filter_slot {l : List Nat} (nodup : l.Nodup) (o : Option Nat) :
    l.length ≤ (l.filter fun k => decide (o ≠ some k)).length + 1 := by
  cases o with
  | none => simp
  | some a =>
    have erased : (l.filter fun k => decide (some a ≠ some k)) = l.erase a := by
      rw [nodup.erase_eq_filter]
      refine List.filter_congr fun k _ => ?_
      rw [Bool.eq_iff_iff, bne_iff_ne, decide_eq_true_iff, ne_eq, Option.some.injEq, ne_eq, eq_comm]
    rw [erased, List.length_erase]
    split <;> omega

theorem mem_fillCandidates_iff {s : State} {k : Nat} :
    k ∈ fillCandidates s ↔ k < nPool ∧ s.pool.armed ≠ some k ∧ s.pool.pendingNext ≠ some k := by
  simp [fillCandidates]

/-- The two slots leave at least six of the eight buffers. -/
theorem six_le_length_fillCandidates (s : State) : 6 ≤ (fillCandidates s).length := by
  have both : fillCandidates s = ((List.range nPool).filter fun k => decide (s.pool.pendingNext ≠ some k)).filter
      fun k => decide (s.pool.armed ≠ some k) := List.filter_filter.symm
  have pending := length_le_filter_slot (List.nodup_range (n := nPool)) s.pool.pendingNext
  have armed := length_le_filter_slot ((List.nodup_range (n := nPool)).filter fun k =>
    decide (s.pool.pendingNext ≠ some k)) s.pool.armed
  have eight : (List.range nPool).length = 8 := List.length_range
  rw [both]
  omega

/-! ### The publish (R197) -/

/-- A publish in process context looks at the mark of the buffer, then at the armed index. -/
theorem exec_publishNext {s : State} {k : Nat} {b : Buffer} (process : s.irq.ctx = .process) (hk : k < nPool)
    (ha : s.pool.allocated = true) (hb : s.pool.bufs[k]? = some b) :
    exec (.publishNext k) s =
      if !b.encoded then .fault .bufferNotEncoded
      else if s.pool.armed = some k then .fault .publishArmed
      else .next (((s.setPending (some k)).log [.slotPut k]).setRet .void) :=
  (processOnly_of process _).trans (withBuf_of hk ha hb _)

end Sys2Proof.Machine
end

section
/-! PROOFS of the statements of 43_pool_and_dma, part 1. -/

namespace Sys2Proof.Machine

/-- Settles O30: the answers give `regionsAt`, whose three checks are the conditions of R51, R180 and R52; the first
failure is the one named. -/
theorem poolAllocationIsAllOrNothing : Obligations.PoolAllocationIsAllOrNothing := by
  intro s process
  refine ⟨exec_poolAlloc_of_pool process, fun free => ⟨fun l p successes => ?_, fun k hk before failed => ?_⟩⟩
  · have run := exec_poolAlloc_of_regions process free (allocRegions_of_successes successes)
    refine ⟨fun bases apart => ?_, fun bad => ?_⟩
    · rw [(aligned_regionsAt_iff l p).2 fun k hk => ⟨(bases k hk).1, (bases k hk).2.1⟩,
        (allApart_regionsAt_iff l p).2 apart, (inReach_regionsAt_iff l p).2 fun k hk => (bases k hk).2.2] at run
      exact ⟨_, run, rfl, fun _ => rfl, rfl, rfl⟩
    · rw [run]
      split_ifs with aligned apart reach
      · exact ⟨_, rfl⟩
      · exact ⟨_, rfl⟩
      · exact ⟨_, rfl⟩
      · exfalso
        simp only [Bool.not_eq_true', Bool.not_eq_false, aligned_regionsAt_iff, allApart_regionsAt_iff,
          inReach_regionsAt_iff] at aligned apart reach
        obtain ⟨k, hk, misplaced⟩ | ⟨i, j, hij, hj, overlap⟩ := bad
        · have bases := aligned k hk
          have ends := reach k hk
          omega
        · have disjoint := apart i j hij hj
          omega
  · have run := exec_poolAlloc_of_failure process free (allocRegions_of_failure hk before failed)
    exact ⟨_, run, rfl, rfl, rfl, rfl, rfl⟩

/-- Settles O31: the checks of the index and of the pool, and the buffer found. No context is looked at
(notes/assumptions/16.md). -/
theorem poolBufferIsNamed : Obligations.PoolBufferIsNamed := by
  intro s i
  refine ⟨fun b hi ha hb capacity => ?_, fun hi noPool => ?_, fun hi => if_neg (Nat.not_lt.2 hi)⟩
  · rw [← capacity]
    exact withBuf_of hi ha hb _
  · exact (ifIndexed_of hi _).trans (if_neg (by simp [noPool]))

/-- Settles O32: the hazard is the fault; without it the state is `poolReleased`, which without a pool is the same
state. -/
theorem poolFreeReleasesAll : Obligations.PoolFreeReleasesAll := by
  intro s process
  have run := exec_poolFree process
  refine ⟨fun armed stopped detached => ?_, fun inUse => ?_⟩
  · rw [(freeHazard_eq_false_iff s).2 ⟨armed, stopped, detached⟩, if_neg Bool.false_ne_true] at run
    refine ⟨fun noPool => ?_, fun allocated => ⟨_, run, ?_, fun a => ?_, rfl, rfl⟩⟩
    · rw [run, poolReleased, noPool, if_neg Bool.false_ne_true, if_neg Bool.false_ne_true, ← noPool]
      rfl
    · simp [poolReleased, allocated]
    · simp [poolReleased, allocated, memRead]
  · rw [(freeHazard_iff s).2 inUse] at run
    exact run

/-- Settles O34: `six_le_length_fillCandidates` and `mem_fillCandidates_iff`. -/
theorem sixBuffersAreIdle : Obligations.SixBuffersAreIdle :=
  fun s => ⟨six_le_length_fillCandidates s, fun _ => mem_fillCandidates_iff⟩

/-- Settles O33: the two checks of `exec_publishNext`; the query reads the slot alone. (A publish before the steady
state is notes/assumptions/41.md.) -/
theorem publishWritesTheSlot : Obligations.PublishWritesTheSlot := by
  refine ⟨fun s k b process hk ha hb => ?_, fun s => ?_⟩
  · have run := exec_publishNext process hk ha hb
    refine ⟨fun encoded idle => ?_, fun notEncoded => ?_, fun armed => ?_⟩
    · rw [encoded, if_neg (by decide), if_neg idle] at run
      exact ⟨_, run, rfl, rfl, rfl⟩
    · rw [notEncoded] at run
      exact ⟨_, run⟩
    · rw [if_pos armed] at run
      cases hencoded : b.encoded with
      | false => rw [hencoded] at run; exact ⟨_, run⟩
      | true => rw [hencoded] at run; exact ⟨_, run⟩
  · show execQueryInflight s = _
    rw [execQueryInflight]
    cases s.pool.pendingNext <;> rfl

end Sys2Proof.Machine
end

section
/-! SUPPORT for the statements of 43_pool_and_dma, part 2: what a configuration, a start, a stop, an acknowledge, a
re-arm and a step of the engine end in, and that none of them is refused on a channel and a buffer that there are. -/

namespace Sys2Proof.Machine

/-! ### Operations of the handler's context (R226, R267) -/

theorem handlerOnly_of_interrupt {s : State} (interrupt : s.irq.ctx = .interrupt) (o : Out) : handlerOnly s o = o := by
  simp [handlerOnly, interrupt]

/-- In process context an operation that would go on is the fault of R267. -/
theorem handlerOnly_of_process {s t : State} {o : Out} (process : s.irq.ctx = .process) (ho : o = .next t) :
    handlerOnly s o = .fault .swapOutsideHandler := by
  simp [handlerOnly, process, ho]

/-- A fault is the same in both contexts. -/
theorem handlerOnly_of_fault {s : State} {o : Out} {r : Fault} (ho : o = .fault r) : handlerOnly s o = .fault r := by
  cases hx : s.irq.ctx <;> simp [handlerOnly, hx, ho]

/-! ### A configuration (R187, R196) -/

section
variable {s : State} {c k : Nat} {ch : Channel} {b : Buffer} (hc : s.chans[c]? = some ch) (hk : k < nPool)
  (ha : s.pool.allocated = true) (hb : s.pool.bufs[k]? = some b)
include hc hk ha hb

/-- The checks of a configuration, in their order. -/
theorem configure_of :
    configure c k s =
      if ch.enable then .fault (.resourceBusy c)
      else if s.producer.encoding = some k then .fault .encodeInProgress
      else if !b.encoded then .fault .bufferNotEncoded
      else .next (configuredState c b s) :=
  (withChan_of hc _).trans (withBuf_of hk ha hb _)

/-- A buffer that is not encoded, or is being encoded, is a fault on every channel (R58, R262). -/
theorem configure_fault (h : b.encoded = false ∨ s.producer.encoding = some k) : ∃ r, configure c k s = .fault r := by
  rw [configure_of hc hk ha hb]
  split_ifs with running busy fresh
  · exact ⟨_, rfl⟩
  · exact ⟨_, rfl⟩
  · exact ⟨_, rfl⟩
  · obtain notEncoded | encoding := h
    · exact absurd (by rw [notEncoded]; rfl) fresh
    · exact absurd encoding busy

end

/-- A fault of the configuration is one of the operation, in both contexts. -/
theorem exec_dmaConfigure_of_fault {s : State} {c k : Nat} {r : Fault} (h : configure c k s = .fault r) :
    exec (.dmaConfigure c k) s = .fault r :=
  handlerOnly_of_fault (congrArg (returning .void) h)

/-- In the handler the four writes stand alone, with no bracket (R219). -/
theorem configuredState_of_interrupt {s : State} {c : Nat} {ch : Channel} (interrupt : s.irq.ctx = .interrupt)
    (hc : s.chans[c]? = some ch) (b : Buffer) :
    ∃ as, configuredState c b s = (s.setChan c (configuredChannel s.cfg b ch)).log as ∧
      fieldsWritten as = [.src c, .dst c, .len c, .ctrl c] ∧ as.length = 8 := by
  obtain ⟨as, heq, written, -, eight⟩ := configuredState_eq hc b
  rw [setMasked_maskAfter_of_interrupt interrupt] at heq
  exact ⟨as, heq, written, eight (by simp [maskNeeded, interrupt])⟩

/-! ### A start (R188, R270) -/

theorem pathValid_eq_true_iff (s : State) :
    pathValid s = true ↔ s.gpio.pinMode = .data ∧ s.tcon.valid = true ∧ s.crc.clkDma = true := by
  simp [pathValid, and_assoc]

theorem pathValid_eq_false {s : State}
    (h : s.gpio.pinMode = .signal ∨ s.tcon.valid = false ∨ s.crc.clkDma = false) : pathValid s = false := by
  obtain mode | invalid | off := h
  · simp [pathValid, mode]
  · simp [pathValid, invalid]
  · simp [pathValid, off]

section
variable {s : State} {c : Nat} {ch : Channel} (hc : s.chans[c]? = some ch)
include hc

/-- The checks of a start, in their order. -/
theorem start_cases :
    start c s =
      if ch.enable then .next s
      else if !pathValid s then .fault .pathNotValid
      else if !ch.configured then .fault .channelUnconfigured
      else if ch.irqPending && decide (s.irq.ctx = .process) then .fault .startBeforeRearm
      else .next (startedState c s) :=
  withChan_of hc _

/-- A start of a stopped channel that finds no valid path, no configuration, or in process context a completion that
waits for its re-arm, is a fault (R263, R270). -/
theorem exec_dmaStart_fault (stopped : ch.enable = false)
    (h : pathValid s = false ∨ ch.configured = false ∨ (ch.irqPending = true ∧ s.irq.ctx = .process)) :
    ∃ r, exec (.dmaStart c) s = .fault r := by
  have fault : ∃ r, start c s = .fault r := by
    rw [start_cases hc, stopped, if_neg Bool.false_ne_true]
    split_ifs with path configured waits
    · exact ⟨_, rfl⟩
    · exact ⟨_, rfl⟩
    · exact ⟨_, rfl⟩
    · obtain noPath | fresh | ⟨pending, process⟩ := h
      · exact absurd (by rw [noPath]; rfl) path
      · exact absurd (by rw [fresh]; rfl) configured
      · exact absurd (by rw [pending, process]; rfl) waits
  obtain ⟨r, hr⟩ := fault
  exact ⟨r, congrArg (returning .void) hr⟩

/-! ### A re-arm (R191, R265) -/

/-- A re-arm of a stopped channel with an encoded buffer, on a valid path: the acknowledge, the configuration and the
start, in that order, in either context. -/
theorem rearm_of {k : Nat} {b : Buffer} (hk : k < nPool) (ha : s.pool.allocated = true)
    (hb : s.pool.bufs[k]? = some b) (stopped : ch.enable = false) (encoded : b.encoded = true)
    (idle : s.producer.encoding ≠ some k) (path : pathValid s = true) :
    ∃ as, rearm c k s =
        .next (((s.setMasked (maskAfter s)).setChan c (armedChannel s.cfg b ch.acknowledged)).log as) ∧
      fieldsWritten as = [.status c, .src c, .dst c, .len c, .ctrl c, .enable c] := by
  obtain ⟨hlt, -⟩ := List.getElem?_eq_some_iff.1 hc
  have acks := acknowledge_eq_next.2 ⟨ch, hc, rfl⟩
  have hacked : ((s.setChan c ch.acknowledged).log (regAccesses (.status c) 0 s)).chans[c]? = some ch.acknowledged :=
    List.getElem?_set_self hlt
  obtain ⟨as, configured, written, -⟩ := configuredState_eq hacked b
  have configures := configure_eq_next.2 ⟨_, b, hacked, hk, ha, hb, stopped, idle, encoded, configured.symm⟩
  have hconfigured : ((s.chans.set c ch.acknowledged).set c (configuredChannel s.cfg b ch.acknowledged))[c]? =
      some (configuredChannel s.cfg b ch.acknowledged) := List.getElem?_set_self (by simpa using hlt)
  obtain ⟨bs, starts, enables, -⟩ := start_of (s := ((((s.setChan c ch.acknowledged).log
    (regAccesses (.status c) 0 s)).setMasked (maskAfter s)).setChan c
      (configuredChannel s.cfg b ch.acknowledged)).log as) hconfigured stopped rfl rfl path
  refine ⟨regAccesses (.status c) 0 s ++ as ++ bs, rearm_eq_next.2 ⟨_, _, acks, configures, starts.trans ?_⟩, ?_⟩
  · simp [State.log, State.setChan, State.setMasked, armedChannel]
  · rw [fieldsWritten_append, fieldsWritten_append, fieldsWritten_regAccesses, written, enables]
    rfl

/-! ### The engine (R192, R193) -/

/-- With no word to move the engine has no step (R192). -/
theorem exec_dmaXfer_of_idle (idle : ch.enable = false ∨ ch.words ≤ ch.dmaPos) :
    exec (.dmaXfer c) s = .fault .engineIdle := by
  refine (withChan_of hc _).trans (if_neg ?_)
  rw [Bool.and_eq_true, decide_eq_true_iff]
  rintro ⟨running, more⟩
  obtain stopped | done := idle
  · exact absurd (running.symm.trans stopped) (by decide)
  · exact absurd more (Nat.not_lt.2 done)

/-- A word that holds no value is a fault (R272). -/
theorem exec_dmaXfer_of_unwritten (enabled : ch.enable = true) (more : ch.dmaPos < ch.words)
    (mode : s.gpio.pinMode = .data) (valid : s.tcon.valid = true)
    (unwritten : read32 s.cfg.endian s.txMem (ch.src.toNat + wordBytes * ch.dmaPos) = none) :
    exec (.dmaXfer c) s = .fault .wordUnwritten := by
  refine (withChan_of hc _).trans ?_
  rw [enabled, decide_eq_true more, mode, valid, unwritten]
  rfl

end

/-- A channel with more words to come moves on (R192). -/
theorem channelAfterWord_of_more {ch : Channel} (more : ch.dmaPos + 1 < ch.words) :
    channelAfterWord ch = { ch with dmaPos := ch.dmaPos + 1 } :=
  if_neg (Nat.ne_of_lt more)

/-- The channel of the last word is complete (R193). -/
theorem channelAfterWord_of_last {ch : Channel} (last : ch.dmaPos + 1 = ch.words) :
    channelAfterWord ch = complete { ch with dmaPos := ch.dmaPos + 1 } :=
  if_pos last

/-- A completion is signalled where the flag was clear (R193). -/
theorem complete_of_clear {ch : Channel} (clear : ch.irqPending = false) :
    complete ch = { ch with enable := false, irqPending := true } := by
  simp [complete, clear]

/-- A completion that finds the flag set is lost (R213). -/
theorem complete_of_pending {ch : Channel} (pending : ch.irqPending = true) :
    complete ch = { ch with enable := false, lost := true } := by
  simp [complete, pending]

theorem dmaPos_channelAfterWord (ch : Channel) : (channelAfterWord ch).dmaPos = ch.dmaPos + 1 := by
  rw [channelAfterWord]
  split <;> rfl

/-- The handler of a lost completion is the stop of R213 (notes/assumptions/15.md, 17.md). -/
theorem exec_irqFrame_of_lost {s : State} {c : Nat} {ch : Channel} (process : s.irq.ctx = .process)
    (hc : s.chans[c]? = some ch) (pending : ch.irqPending = true) (lost : ch.lost = true) :
    exec (.irqFrame c) s = .fault (.interruptLost c) := by
  refine (withChan_of hc _).trans ?_
  rw [process, pending, lost]
  rfl

end Sys2Proof.Machine
end

section
/-! PROOFS of the statements of 43_pool_and_dma, part 2. -/

namespace Sys2Proof.Machine

/-- Settles O35: the state is that of `configuredState_of_interrupt`; the faults are those of the configuration's
checks, and in process context that of `handlerOnly` (notes/assumptions/16.md; the order of the writes is 6.md). -/
theorem configureWritesTheChannel : Obligations.ConfigureWritesTheChannel := by
  intro s c k ch b hc hk ha hb
  refine ⟨fun stopped encoded idle => ?_, fun running => ?_, fun notEncoded => ?_, fun encoding => ?_⟩
  · have configures : configure c k s = .next (configuredState c b s) :=
      configure_eq_next.2 ⟨ch, b, hc, hk, ha, hb, stopped, idle, encoded, rfl⟩
    have returns : returning .void (configure c k s) = .next ((configuredState c b s).setRet .void) :=
      returning_eq_next.2 ⟨_, configures, rfl⟩
    refine ⟨fun interrupt => ?_, fun process => handlerOnly_of_process process returns⟩
    obtain ⟨as, heq, written, eight⟩ := configuredState_of_interrupt interrupt hc b
    refine ⟨_, (handlerOnly_of_interrupt interrupt _).trans returns, ?_⟩
    rw [heq]
    exact ⟨rfl, ⟨as, rfl, written, eight⟩, rfl, rfl⟩
  · exact exec_dmaConfigure_of_fault ((configure_of hc hk ha hb).trans (if_pos running))
  · obtain ⟨r, hr⟩ := configure_fault hc hk ha hb (.inl notEncoded)
    exact ⟨r, exec_dmaConfigure_of_fault hr⟩
  · obtain ⟨r, hr⟩ := configure_fault hc hk ha hb (.inr encoding)
    exact ⟨r, exec_dmaConfigure_of_fault hr⟩

/-- Settles O36: a running channel stays, a stopped one ends in `startedState`, and the faults are
`exec_dmaStart_fault`. -/
theorem startIsIdempotent : Obligations.StartIsIdempotent := by
  intro s c ch hc
  refine ⟨fun running => ?_, fun stopped mode valid clocked configured ready => ?_,
    fun stopped pending process => exec_dmaStart_fault hc stopped (.inr (.inr ⟨pending, process⟩)),
    fun stopped noPath => exec_dmaStart_fault hc stopped (.inl (pathValid_eq_false noPath)),
    fun stopped fresh => exec_dmaStart_fault hc stopped (.inr (.inl fresh))⟩
  · exact returning_eq_next.2 ⟨s, start_eq_next.2 ⟨ch, hc, .inl ⟨running, rfl⟩⟩, rfl⟩
  · have path := (pathValid_eq_true_iff s).2 ⟨mode, valid, clocked⟩
    have allowed : ch.irqPending = true → s.irq.ctx = .interrupt := fun pending =>
      ready.resolve_left (by rw [pending]; decide)
    have starts := start_eq_next.2 ⟨ch, hc, .inr ⟨stopped, path, configured, allowed, rfl⟩⟩
    obtain ⟨as, heq, written⟩ := startedState_eq hc
    rw [heq] at starts
    exact ⟨_, returning_eq_next.2 ⟨_, starts, rfl⟩, rfl, ⟨as, rfl, written⟩, rfl, rfl⟩

/-- Settles O37: `stop_eq_next` and `acknowledge_eq_next` are the two operations, the second in either context
(notes/assumptions/16.md); over all instructions it is `SignalEffect.flag_cases`. -/
theorem stopAndAcknowledge : Obligations.StopAndAcknowledge := by
  refine ⟨fun s c ch hc => ⟨fun process => ?_, ?_⟩, fun s t i c ch ch' h hc hc' => ?_⟩
  · have stops := stop_eq_next.2 ⟨ch, hc, rfl⟩
    refine ⟨_, (processOnly_of process _).trans (returning_eq_next.2 ⟨_, stops, rfl⟩), rfl, fun stopped => ?_,
      ⟨_, rfl, rfl⟩, rfl, rfl⟩
    exact set_eq_of_getElem? (by rw [hc, ← stopped])
  · have acks := acknowledge_eq_next.2 ⟨ch, hc, rfl⟩
    refine ⟨_, returning_eq_next.2 ⟨_, acks, rfl⟩, rfl, fun clear => ?_, ⟨_, rfl, rfl⟩, rfl, rfl⟩
    exact set_eq_of_getElem? (by rw [hc, ← clear])
  · obtain same | ⟨hi, running, last, set⟩ | ⟨hi, clear⟩ := (exec_signalEffect h).flag_cases hc hc'
    · exact ⟨fun was now => absurd (was.symm.trans (same.symm.trans now)) (by decide),
        fun was now => absurd (now.symm.trans (same.trans was)) (by decide)⟩
    · exact ⟨fun _ _ => ⟨hi, running, last⟩, fun _ now => absurd (now.symm.trans set) (by decide)⟩
    · exact ⟨fun _ now => absurd (clear.symm.trans now) (by decide), fun _ _ => hi⟩

/-- Settles O38: `rearm_of`, which in process context is the fault of `handlerOnly` (notes/assumptions/16.md; the order
of the configuration writes is 6.md). -/
theorem rearmAcknowledgesFirst : Obligations.RearmAcknowledgesFirst := by
  intro s c k ch b hc hk ha hb stopped encoded idle mode valid clocked
  have path := (pathValid_eq_true_iff s).2 ⟨mode, valid, clocked⟩
  obtain ⟨as, rearms, written⟩ := rearm_of hc hk ha hb stopped encoded idle path
  have returns := (returning_eq_next (r := .void)).2 ⟨_, rearms, rfl⟩
  refine ⟨fun interrupt => ?_, fun process => handlerOnly_of_process process returns⟩
  rw [setMasked_maskAfter_of_interrupt interrupt] at returns
  exact ⟨_, (handlerOnly_of_interrupt interrupt _).trans returns, rfl, ⟨as, rfl, written⟩, rfl, rfl⟩

/-- Settles O39: the state is the write of the word with the channel moved on (`exec_dmaXfer_of`), and the panel's view
that of `panelSees`. -/
theorem engineMovesOneWord : Obligations.EngineMovesOneWord := by
  intro s c ch hc
  refine ⟨fun idle => ⟨_, exec_dmaXfer_of_idle hc idle⟩, fun enabled more mode valid =>
    ⟨exec_dmaXfer_of_unwritten hc enabled more mode valid, fun w word hw known => ?_⟩⟩
  have panel := pinWritten_panel mode w
  refine ⟨_, channelAfterWord ch, exec_dmaXfer_of hc enabled more mode valid word hw known, rfl, rfl,
    dmaPos_channelAfterWord ch, channelAfterWord_of_more, congrArg Panel.strobeSeen panel, fun low high => ?_,
    fun steady => ?_, rfl⟩
  · exact (congrArg Panel.latched panel).trans (panelSees_of_rise low high)
  · exact (congrArg Panel.latched panel).trans (panelSees_of_no_rise steady)

/-- Settles O40: the channel moved on is complete (`channelAfterWord_of_last`), and marked lost where the flag was set
(the model's form of R213: notes/assumptions/15.md, 17.md). -/
theorem lastWordCompletes : Obligations.LastWordCompletes := by
  intro s c ch w hc enabled last mode valid word hw known
  have more : ch.dmaPos < ch.words := Nat.lt_of_succ_le last.le
  obtain ⟨hlt, -⟩ := List.getElem?_eq_some_iff.1 hc
  have run := exec_dmaXfer_of hc enabled more mode valid word hw known
  rw [channelAfterWord_of_last last] at run
  refine ⟨_, run, rfl, List.any_eq_true.2 ⟨_, List.mem_set hlt _, rfl⟩, fun clear => ?_,
    fun pending => ⟨?_, fun process => ?_⟩⟩
  · exact congrArg (s.chans.set c) (complete_of_clear clear)
  · exact congrArg (s.chans.set c) (complete_of_pending pending)
  · exact exec_irqFrame_of_lost process (List.getElem?_set_self hlt) rfl (by simp [complete, pending])

end Sys2Proof.Machine
end

section
/-! PROOF of the statement of 60_exceptions about InterruptLost (R213): no operation but a handler run answers with that
stop, a handler run does so on a lost completion alone, and under the invariant none is lost and the refresh loop is not
stuck. -/

namespace Sys2Proof.Machine

/-- The outcome is not the stop of R213. -/
def NeverLost (o : Out) : Prop := ∀ c, o ≠ .fault (.interruptLost c)

namespace NeverLost

/-! ### How an outcome is made -/

theorem next (s : State) : NeverLost (.next s) := fun _ => nofun

theorem refused (r : Refusal) : NeverLost (.refused r) := fun _ => nofun

theorem fault {r : Fault} (h : ∀ c, r ≠ .interruptLost c) : NeverLost (.fault r) :=
  fun c stop => h c (Host.Outcome.fault.inj stop)

theorem ite {p : Prop} [Decidable p] {a b : Out} (ha : NeverLost a) (hb : NeverLost b) :
    NeverLost (if p then a else b) := by
  split
  · exact ha
  · exact hb

theorem andThen {o : Out} {f : State → Out} (ho : NeverLost o) (hf : ∀ s, NeverLost (f s)) :
    NeverLost (Machine.andThen o f) := by
  cases o with
  | next s => exact hf s
  | fault r => exact fun c stop => ho c stop
  | refused r => exact .refused r

theorem returning {r : Ret} {o : Out} (ho : NeverLost o) : NeverLost (Machine.returning r o) :=
  ho.andThen fun _ => .next _

theorem withChan {s : State} {c : Nat} {f : Channel → Out} (hf : ∀ ch ∈ s.chans, NeverLost (f ch)) :
    NeverLost (Machine.withChan s c f) := by
  unfold Machine.withChan
  split
  · rename_i ch hc
    exact hf ch (List.mem_of_getElem? hc)
  · exact .refused _

theorem ifIndexed {k : Nat} {o : Out} (ho : NeverLost o) : NeverLost (Machine.ifIndexed k o) := .ite ho (.refused _)

theorem withBuf {s : State} {k : Nat} {f : Buffer → Out} (hf : ∀ b, NeverLost (f b)) :
    NeverLost (Machine.withBuf s k f) := by
  refine ifIndexed (.ite ?_ (.fault nofun))
  split
  · exact hf _
  · exact .fault nofun

theorem processOnly {s : State} {o : Out} (ho : NeverLost o) : NeverLost (Machine.processOnly s o) := by
  unfold Machine.processOnly
  split
  · exact ho
  · exact .refused _

theorem handlerOnly {s : State} {o : Out} (ho : NeverLost o) : NeverLost (Machine.handlerOnly s o) := by
  unfold Machine.handlerOnly
  split
  · exact ho
  · exact ho.andThen fun _ => .fault nofun

theorem bringupFrom {b : Bringup} {s : State} {o : Out} (ho : NeverLost o) : NeverLost (Machine.bringupFrom b s o) :=
  processOnly (.ite (.refused _) (.ite (.refused _) ho))

theorem raiseError (e : PipeError) (s : State) : NeverLost (Machine.raiseError e s) := .next _

/-! ### The shared operations -/

theorem pinWrite (w : Word) (s : State) : NeverLost (Machine.pinWrite w s) :=
  .ite (.fault nofun) (.ite (.fault nofun) (.next _))

theorem emitWords (lo hi : Word) (s : State) : NeverLost (Machine.emitWords lo hi s) := by
  refine .ite ?_ (.fault nofun)
  split
  · exact (pinWrite lo s).andThen (pinWrite hi)
  · exact .fault nofun

theorem emitItems (items : List PanelItem) (s : State) : NeverLost (Machine.emitItems items s) := by
  induction items generalizing s with
  | nil => exact .next s
  | cons it items ih => exact (emitWords _ _ s).andThen ih

theorem acknowledge (c : Nat) (s : State) : NeverLost (Machine.acknowledge c s) := withChan fun _ _ => .next _

theorem configure (c k : Nat) (s : State) : NeverLost (Machine.configure c k s) :=
  withChan fun _ _ => withBuf fun _ => .ite (.fault nofun) (.ite (.fault nofun) (.ite (.fault nofun) (.next _)))

theorem start (c : Nat) (s : State) : NeverLost (Machine.start c s) :=
  withChan fun _ _ => .ite (.next s) (.ite (.fault nofun) (.ite (.fault nofun) (.ite (.fault nofun) (.next _))))

theorem stop (c : Nat) (s : State) : NeverLost (Machine.stop c s) := withChan fun _ _ => .next _

theorem rearm (c k : Nat) (s : State) : NeverLost (Machine.rearm c k s) :=
  (acknowledge c s).andThen fun u => (configure c k u).andThen (start c)

theorem freePool (s : State) : NeverLost (Machine.freePool s) := .ite (.fault nofun) (.ite (.next _) (.next s))

theorem stopAll (c n : Nat) (s : State) : NeverLost (Machine.stopAll c n s) := by
  induction n generalizing c s with
  | zero => exact .next s
  | succ n ih => exact (stop c s).andThen (ih (c + 1))

theorem teardownRest (s : State) : NeverLost (Machine.teardownRest s) := (freePool _).andThen fun _ => .next _

theorem finishTorn (w : HalfWrite) (s : State) : NeverLost (Machine.finishTorn w s) := by
  by_cases hw : w.op = .teardown
  · rw [finishTorn_teardown hw]
    exact (stopAll _ _ _).andThen teardownRest
  · rw [finishTorn_of hw]
    exact .next _

/-! ### The instructions -/

theorem encFrame (k : Nat) (s : State) : NeverLost (exec (.encFrame k) s) :=
  processOnly (ifIndexed (.ite (.fault nofun) (.ite (raiseError _ s)
    (withBuf fun _ => .ite (raiseError _ s) (.ite (.fault nofun) (.next _))))))

theorem publishNext (k : Nat) (s : State) : NeverLost (exec (.publishNext k) s) :=
  processOnly (withBuf fun _ => .ite (.fault nofun) (.ite (.fault nofun) (.next _)))

theorem tconCfg (o : TimingOperand) (s : State) : NeverLost (exec (.tconCfg o) s) :=
  bringupFrom (.ite (.fault nofun) (.ite (raiseError _ s) (.ite (.refused _) (.next _))))

theorem brgInit (items : PanelOperand) (s : State) : NeverLost (exec (.brgInit items) s) :=
  bringupFrom (.ite (.fault nofun) ((emitItems _ s).andThen fun _ => .next _))

theorem brgArm (c k : Nat) (s : State) : NeverLost (exec (.brgArm c k) s) :=
  bringupFrom (withBuf fun _ => .ite (.fault nofun) (.ite (.fault nofun)
    ((configure c k s).andThen fun u => (start c u).andThen fun _ => .next _)))

theorem poolAlloc (s : State) : NeverLost (exec .poolAlloc s) := by
  refine processOnly (.ite (.fault nofun) ?_)
  split
  · exact raiseError _ _
  · exact .ite (.refused _) (.ite (.refused _) (.ite (.refused _) (.next _)))

theorem dmaXfer (c : Nat) (s : State) : NeverLost (exec (.dmaXfer c) s) := by
  refine withChan fun ch _ => .ite (.ite (.fault nofun) (.ite (.fault nofun) ?_)) (.fault nofun)
  split
  · exact .fault nofun
  · exact (pinWrite _ s).andThen fun _ => .next _

/-- A handler run answers with the stop of R213 on a lost completion alone. -/
theorem irqFrame {s : State} (kept : ∀ ch ∈ s.chans, ch.lost = false) (c : Nat) :
    NeverLost (exec (.irqFrame c) s) := by
  refine withChan fun ch hch => ?_
  split
  · exact .refused _
  · rw [kept ch hch, if_neg Bool.false_ne_true]
    refine .ite (.refused _) (.ite (.refused _) (.ite (.refused _) ?_))
    split
    · exact .fault nofun
    · exact ((acknowledge c _).andThen fun _ => rearm c _ _).andThen fun _ => .next _

theorem exec {s : State} (kept : ∀ ch ∈ s.chans, ch.lost = false) (i : Instr) : NeverLost (Machine.exec i s) := by
  cases i with
  | cmdLo v => exact pinWrite _ s
  | cmdHi v => exact pinWrite _ s
  | datLo v => exact pinWrite _ s
  | datHi v => exact pinWrite _ s
  | encCmd b => exact .next _
  | encPix p => exact .next _
  | decWord w => exact .next _
  | emitPair lo hi => exact (emitWords lo hi s).returning
  | encFrame k => exact encFrame k s
  | brgClocks => exact bringupFrom (.next _)
  | brgPins => exact bringupFrom (.next _)
  | tconCfg o => exact tconCfg o s
  | brgInit items => exact brgInit items s
  | brgArm c k => exact brgArm c k s
  | teardown => exact processOnly ((stopAll _ _ s).andThen teardownRest)
  | poolAlloc => exact poolAlloc s
  | poolBuf k => exact withBuf fun _ => .next _
  | poolFree => exact processOnly (freePool s).returning
  | dmaConfigure c k => exact handlerOnly (configure c k s).returning
  | dmaStart c => exact (start c s).returning
  | dmaStop c => exact processOnly (stop c s).returning
  | dmaAck c => exact (acknowledge c s).returning
  | dmaRearm c k => exact handlerOnly (rearm c k s).returning
  | dmaXfer c => exact dmaXfer c s
  | publishNext k => exact publishNext k s
  | queryInflight => exact .next _
  | irqFrame c => exact irqFrame kept c

/-! ### The steps of the agents -/

theorem encodeStep (s : State) : NeverLost (Machine.encodeStep s) := by
  unfold Machine.encodeStep
  split
  · exact .refused _
  · refine withBuf fun b => .ite (.fault nofun) ?_
    split
    · exact .fault nofun
    · exact .next _

theorem nextNote (s : State) : NeverLost (Machine.nextNote s) := by
  refine .ite ?_ (.refused _)
  split
  · exact (encFrame _ _).andThen fun _ => .next _
  · exact .refused _

theorem producerWork (s : State) : NeverLost (Machine.producerWork s) := by
  refine .ite (encodeStep s) ?_
  split
  · exact publishNext _ _
  · split
    · exact finishTorn _ s
    · exact nextNote s

theorem badCode (e : DecodeError) : NeverLost (Machine.badCode e) := by
  cases e with
  | nonCanonical w => exact .fault nofun
  | empty | illegalOpsel t | truncated t => exact .refused _

section
variable {s : State} (kept : ∀ ch ∈ s.chans, ch.lost = false)
include kept

theorem producerMoves : NeverLost (Machine.producerMoves s) := by
  unfold Machine.producerMoves
  split
  · exact irqFrame kept _
  · exact producerWork s

theorem runCode (code : Code) (rest : List Event) : NeverLost (Machine.runCode code rest s) := by
  unfold Machine.runCode
  split
  · exact badCode _
  · exact .ite (producerMoves kept) (exec (s := { s with inbox := afterFetch _ rest }) kept _)

theorem runProducerStep (rest : List Event) : NeverLost (Machine.runProducerStep rest s) := by
  unfold Machine.runProducerStep
  split
  · exact irqFrame kept _
  · exact producerWork _

theorem runEvent (e : Event) (rest : List Event) : NeverLost (Machine.runEvent e rest s) := by
  cases e with
  | word w => exact runCode kept _ rest
  | calls bs => exact runCode kept _ rest
  | producerStep => exact .ite (runProducerStep kept rest) (.refused _)
  | readHalf op => exact .ite (producerMoves kept) (processOnly (withChan fun _ _ => .next _))
  | attach => exact .ite (producerMoves kept) (.next _)
  | pixelWrite i p => exact .ite (.next _) (.refused _)
  | handOver base bytes => exact .ite (.next _) (.refused _)
  | notify offset k => exact .next _
  | allocator draws => exact .next _

/-- With an empty inbox the stop is that of a stuck refresh loop (R213). -/
theorem idleStep (free : stuckChannel s = none) : NeverLost (Machine.idleStep s) := by
  unfold Machine.idleStep
  split
  · exact irqFrame kept _
  · refine .ite (producerWork s) ?_
    split
    · exact dmaXfer _ s
    · rw [free]
      exact .next s

end

end NeverLost

/-! ### The refresh loop is not stuck -/

theorem firstChannel_congr {p q : Channel → Bool} {chs : List Channel} (h : ∀ ch ∈ chs, p ch = q ch) (c : Nat) :
    firstChannel p c chs = firstChannel q c chs := by
  induction chs generalizing c with
  | nil => rfl
  | cons ch chs ih =>
    rw [firstChannel, firstChannel, h ch List.mem_cons_self, ih fun x hx => h x (List.mem_cons_of_mem _ hx)]

/-- In the steady state no completion is lost and the handler can run, so a pending completion is delivered (R220,
R221). -/
theorem Inv.deliverable_eq {s : State} (inv : Inv s) (armed : s.bringup = .armed) :
    deliverable s = firstChannel (·.irqPending) 0 s.chans := by
  rw [deliverable, inv.armed.attached armed, inv.unmasked, inv.context]
  exact firstChannel_congr (fun ch hch => by rw [(inv.channel ch hch).kept, Bool.not_false, Bool.and_true]) 0

theorem Inv.stuckChannel_eq_none {s : State} (inv : Inv s) : stuckChannel s = none := by
  unfold stuckChannel
  split
  · rename_i stuck
    simp only [Bool.and_eq_true, decide_eq_true_eq, Option.isNone_iff_eq_none] at stuck
    obtain ⟨⟨armed, undelivered⟩, -⟩ := stuck
    exact (inv.deliverable_eq armed).symm.trans undelivered
  · rfl

/-- Settles O50: no completion is lost (`ChannelGood.kept`), which leaves the stop of a stuck refresh loop, and the loop
is not stuck (`Inv.stuckChannel_eq_none`). (That the stop is a fault, and its mark on the channel, are the model's form of
R213: notes/assumptions/15.md, 17.md; the order of the moves with an empty inbox is 7.md.) -/
theorem interruptLostIsNotReached : Obligations.InterruptLostIsNotReached := by
  intro s c inv
  have kept : ∀ ch ∈ s.chans, ch.lost = false := fun ch hch => (inv.channel ch hch).kept
  cases hc : configProblem s.cfg with
  | some r => exact step_refused hc ▸ NeverLost.refused r c
  | none =>
    cases hi : s.inbox with
    | nil => exact step_idle hc hi ▸ NeverLost.idleStep kept inv.stuckChannel_eq_none c
    | cons e rest => exact step_event hc hi ▸ NeverLost.runEvent kept e rest c

end Sys2Proof.Machine
end

section
/-! SUPPORT for the statements of 60_exceptions: the state in which a handler run ends, and the moves before which a
completion that can be delivered comes. -/

namespace Sys2Proof.Machine

/-! ### A handler run (R221, R222, R224) -/

theorem processOnly_of_interrupt {s : State} (interrupt : s.irq.ctx = .interrupt) (o : Out) :
    processOnly s o = .refused .processContextOnly := by
  simp [processOnly, interrupt]

/-- The state after a handler run on channel `c`, which was `ch`, that arms buffer `k`, which is `b` (R222). -/
def frameHandled (c k : Nat) (ch : Channel) (b : Buffer) (as : List Access) (s : State) : State :=
  { s with
    chans := s.chans.set c (armedChannel s.cfg b ch.acknowledged)
    pool := { s.pool with armed := some k, pendingNext := none }
    trace := s.trace ++ as }

section
variable {s : State} {c : Nat} {ch : Channel} (process : s.irq.ctx = .process) (attached : s.irq.attached = true)
  (unmasked : s.irq.masked = false) (hc : s.chans[c]? = some ch) (pending : ch.irqPending = true)
  (kept : ch.lost = false)
include process attached unmasked hc pending kept

/-- Entered with nothing armed (R250). -/
theorem exec_irqFrame_of_unarmed (unarmed : s.pool.armed = none) : exec (.irqFrame c) s = .fault .noArmedBuffer := by
  refine (withChan_of hc _).trans ?_
  rw [process, pending, kept, attached, unmasked, unarmed]
  rfl

/-- Entered with a buffer armed, the handler does its body in interrupt context and returns (R221, R224). -/
theorem exec_irqFrame_of_armed {same : Nat} (armed : s.pool.armed = some same) :
    exec (.irqFrame c) s = andThen (handlerBody c same (enterHandler s)) fun u => .next (leaveHandler u) := by
  refine (withChan_of hc _).trans ?_
  rw [process, pending, kept, attached, unmasked, armed]
  rfl

/-- A handler run acknowledges, takes the slot, marks the buffer armed and re-arms the stopped channel with it, on a valid
path (R222). -/
theorem exec_irqFrame {same k : Nat} {b : Buffer} (armed : s.pool.armed = some same) (next : k = nextArmed s same)
    (hk : k < nPool) (ha : s.pool.allocated = true) (hb : s.pool.bufs[k]? = some b) (stopped : ch.enable = false)
    (encoded : b.encoded = true) (idle : s.producer.encoding ≠ some k) (path : pathValid s = true) :
    ∃ bs, exec (.irqFrame c) s = .next (frameHandled c k ch b (regAccesses (.status c) 0 (enterHandler s) ++
        [.slotTake s.pool.pendingNext, .armedSet (some k)] ++ bs) s) ∧
      fieldsWritten bs = [.status c, .src c, .dst c, .len c, .ctrl c, .enable c] := by
  obtain ⟨hlt, -⟩ := List.getElem?_eq_some_iff.1 hc
  obtain ⟨u, hu⟩ : ∃ u, u = ((enterHandler s).setChan c ch.acknowledged).log
    (regAccesses (.status c) 0 (enterHandler s)) := ⟨_, rfl⟩
  have acks : acknowledge c (enterHandler s) = .next u := acknowledge_eq_next.2 ⟨ch, hc, hu⟩
  have swaps : nextArmed u same = k := by rw [next, hu]; rfl
  have swapped : (markArmed k (takePending u)).chans[c]? = some ch.acknowledged := by
    rw [hu]; exact List.getElem?_set_self hlt
  obtain ⟨bs, rearms, written⟩ := rearm_of swapped hk (by rw [hu]; exact ha) (by rw [hu]; exact hb) stopped encoded
    (by rw [hu]; exact idle) (by rw [hu]; exact path)
  rw [setMasked_maskAfter_of_interrupt (by rw [hu]; rfl)] at rearms
  have returned : { s.irq with ctx := .process } = s.irq := by rw [← process]
  refine ⟨bs, ?_, written⟩
  rw [exec_irqFrame_of_armed process attached unmasked hc pending kept armed, handlerBody, acks, andThen_next, swaps,
    rearms, andThen_next, hu]
  simp [frameHandled, leaveHandler, enterHandler, markArmed, takePending, State.log, State.setChan, State.setCtx,
    State.setArmed, State.setPending, Channel.acknowledged_acknowledged, returned]

end

/-! ### A completion that can be delivered comes first (R220) -/

/-- The completion of the one channel, with the handler attached, unmasked and not running, is delivered (R217, R221). -/
theorem deliverable_of_single {s : State} {ch : Channel} (single : s.chans = [ch]) (pending : ch.irqPending = true)
    (kept : ch.lost = false) (attached : s.irq.attached = true) (unmasked : s.irq.masked = false)
    (process : s.irq.ctx = .process) : deliverable s = some 0 := by
  simp [deliverable, firstChannel, single, pending, kept, attached, unmasked, process]

section
variable {s : State} {c : Nat} (delivered : deliverable s = some c)
include delivered

theorem producerMoves_deliverable : producerMoves s = exec (.irqFrame c) s := by
  unfold producerMoves
  rw [delivered]

theorem runProducerStep_deliverable (rest : List Event) : runProducerStep rest s = exec (.irqFrame c) s := by
  unfold runProducerStep
  rw [delivered]

end

end Sys2Proof.Machine
end

section
/-! PROOFS of the statements of 60_exceptions about the handler. -/

namespace Sys2Proof.Machine

/-- Settles O41: the state is `frameHandled`. (The order of the configuration writes, and the handler as one step, are the
model's: notes/assumptions/6.md, 18.md.) -/
theorem frameCompletionHandler : Obligations.FrameCompletionHandler := by
  intro s c m k ch b process attached unmasked hc pending kept stopped armed next hk ha hb encoded idle mode valid clocked
  have path := (pathValid_eq_true_iff s).2 ⟨mode, valid, clocked⟩
  obtain ⟨bs, run, written⟩ := exec_irqFrame process attached unmasked hc pending kept armed next hk ha hb stopped encoded
    idle path
  refine ⟨_, run, rfl, rfl, rfl, ⟨regAccesses (.status c) 0 (enterHandler s), bs, ?_, rfl, rfl, written⟩, rfl⟩
  simp [frameHandled]

/-- Settles O42: the checks of `IRQ_FRAME`, in their order. (The refusals are notes/assumptions/18.md; that the slot is not
looked at is 34.md.) -/
theorem handlerIsNotEntered : Obligations.HandlerIsNotEntered := by
  intro s c ch hc
  have entry := withChan_of hc
  refine ⟨fun interrupt => (entry _).trans (by rw [interrupt]), fun process =>
    ⟨fun clear => (entry _).trans (by rw [process, clear]; rfl), fun pending kept =>
      ⟨fun detached => (entry _).trans (by rw [process, pending, kept, detached]; rfl),
        fun attached masked => (entry _).trans (by rw [process, pending, kept, attached, masked]; rfl),
        fun attached unmasked unarmed =>
          exec_irqFrame_of_unarmed process attached unmasked hc pending kept unarmed⟩⟩⟩

/-- Settles O43: each of the four steps looks at `deliverable` first. (Which step comes next is notes/assumptions/7.md, and
the halves are 38.md.) -/
theorem interruptIsTakenAtOnce : Obligations.InterruptIsTakenAtOnce := by
  intro s ch hc single pending kept attached unmasked process first
  have delivered := deliverable_of_single single pending kept attached unmasked process
  have moves := producerMoves_deliverable delivered
  have taken : step s = exec (.irqFrame 0) s := by
    obtain empty | ⟨rest, hi, work⟩ | ⟨e, rest, hi, kind, busy⟩ | ⟨code, rest, i, tail, hi, hd, hp, busy⟩ := first
    · exact (step_idle hc empty).trans (idleStep_deliverable delivered)
    · exact (step_event hc hi).trans ((if_pos work).trans (runProducerStep_deliverable delivered rest))
    · refine (step_event hc hi).trans (Eq.trans ?_ moves)
      obtain rfl | ⟨op, rfl⟩ := kind
      · exact whenFree_busy busy _
      · exact whenFree_busy busy _
    · exact (step_code hc hi).trans ((runCode_busy rest hd busy hp).trans moves)
  refine ⟨taken, fun t hstep => ?_⟩
  obtain ⟨same, ch', b, tr, -, -, -, -, -, -, rfl⟩ := execIrqFrame_next (taken ▸ hstep)
  exact ⟨rfl, rfl, rfl⟩

/-- Settles O44: each of these operations looks at the context first. (The refusal is notes/assumptions/16.md.) -/
theorem interruptContextIsRestricted : Obligations.InterruptContextIsRestricted := by
  intro s i interrupt restricted
  have refuses := processOnly_of_interrupt interrupt
  obtain ⟨k, rfl⟩ | ⟨⟨b, b'⟩, edge⟩ | rfl | rfl | rfl | ⟨c, rfl⟩ | ⟨k, rfl⟩ := restricted
  · exact refuses _
  · obtain ⟨o, run⟩ := exec_of_bringupEdge edge s
    exact run.trans (bringupFrom_of_interrupt interrupt)
  all_goals exact refuses _

end Sys2Proof.Machine
end

section
/-! PROOF of the statement of 60_exceptions about the steady state: under the invariant the checks of the engine's step, of a
handler run and of the busy producer's step all pass, and the state each ends in is named. -/

namespace Sys2Proof.Machine

/-! ### What the invariant says in the steady state -/

/-- An admitted configuration has a well-formed pin map (R8). -/
theorem pinMapFacts_of_configProblem {c : Config} (h : configProblem c = none) : PinMapFacts c := by
  refine (pinMapOk_iff c).1 ?_
  by_contra illFormed
  exact nomatch h.symm.trans (configProblem_of_pinMap (by simpa using illFormed))

/-- A buffer that is found is one of the eight of an allocated pool (R181). -/
theorem Inv.found {s : State} {k : Nat} {b : Buffer} (inv : Inv s) (hb : s.pool.bufs[k]? = some b) :
    k < nPool ∧ s.pool.allocated = true := by
  have allocated : s.pool.allocated = true := by
    by_contra free
    obtain ⟨empty, -⟩ := inv.pool.none (by simpa using free)
    simp [empty] at hb
  obtain ⟨hlt, -⟩ := List.getElem?_eq_some_iff.1 hb
  exact ⟨inv.pool.size allocated ▸ hlt, allocated⟩

/-- The armed buffer is encoded, and every channel's source (R24, R186). -/
theorem Inv.exists_armed {s : State} (inv : Inv s) (steady : s.bringup = .armed) :
    ∃ m x, s.pool.armed = some m ∧ s.pool.bufs[m]? = some x ∧ x.encoded = true ∧
      ∀ ch ∈ s.chans, ch.configured = true ∧ ch.src.toNat = x.physBase := by
  obtain ⟨m, armed⟩ := Option.isSome_iff_exists.1 (inv.armed.index.1 steady)
  obtain ⟨x, hx, encoded, sources⟩ := inv.armed.source m armed
  exact ⟨m, x, armed, hx, encoded, sources⟩

/-- The path is valid in the steady state (R151, R152, R154, R188). -/
theorem Inv.path_valid {s : State} (inv : Inv s) (steady : s.bringup = .armed) : pathValid s = true := by
  have clocks := inv.bringup.clocks (by rw [steady]; decide)
  exact (pathValid_eq_true_iff s).2 ⟨inv.bringup.pins (by rw [steady]; decide),
    inv.bringup.timing (by rw [steady]; decide), by rw [clocks]⟩

/-- A buffer neither armed nor published is not in use: the channels stream the armed one, which lies apart (R136, R186). -/
theorem Inv.bufferInUse_eq_false {s : State} {k : Nat} {b : Buffer} (inv : Inv s) (steady : s.bringup = .armed)
    (hb : s.pool.bufs[k]? = some b) (unarmed : s.pool.armed ≠ some k) (unpublished : s.pool.pendingNext ≠ some k) :
    bufferInUse s k b = false := by
  refine Machine.bufferInUse_eq_false unarmed unpublished fun ch hch _ source => ?_
  obtain ⟨m, x, armed, hx, -, sources⟩ := inv.exists_armed steady
  obtain ⟨-, streams⟩ := sources ch hch
  have apart := (inv.armedBuffer armed hx).apart k b (fun same => unarmed (same ▸ armed)) hb
  have bytes := frameBytes_eq
  have outside := not_inBuffer_of_apart apart (n := x.physBase) ⟨Nat.le_refl _, by omega⟩
  omega

/-! ### The three agents -/

section
variable {s : State} {c : Nat} {ch : Channel} (inv : Inv s) (steady : s.bringup = .armed)
  (hc : s.chans[c]? = some ch)
include inv steady hc

/-- A running channel moves the next word of the armed buffer's frame, which is canonical and whose latch is determined
(R192, R216). -/
theorem exec_dmaXfer_of_inv (admitted : configProblem s.cfg = none) (enabled : ch.enable = true) :
    ∃ w, exec (.dmaXfer c) s = .next ((pinWritten w s).setChan c (channelAfterWord ch)) := by
  have pinMap := pinMapFacts_of_configProblem admitted
  have good := inv.channel ch (List.mem_of_getElem? hc)
  obtain ⟨configured, more, path⟩ := good.running enabled
  obtain ⟨mode, valid, -⟩ := (pathValid_eq_true_iff s).1 path
  obtain ⟨m, x, -, hx, encoded, sources⟩ := inv.exists_armed steady
  obtain ⟨-, source⟩ := sources ch (List.mem_of_getElem? hc)
  obtain ⟨P, frame⟩ := inv.pool.encoded x (List.mem_of_getElem? hx) encoded
  obtain ⟨v, hw⟩ := frameWord_eq_wordOf s.cfg P ch.dmaPos
  have word := frame ch.dmaPos more
  rw [readTx, txAddr, ← source] at word
  have known : s.panel.strobeKnown = true ∨ strobeBit s.cfg (frameWord s.cfg P ch.dmaPos) = false := by
    obtain first | known := good.strobe enabled
    · exact .inr (by rw [hw, first, strobeBit_wordOf pinMap]; rfl)
    · exact .inl known
  exact ⟨_, exec_dmaXfer_of hc enabled (good.words_eq configured ▸ more) mode valid word
    (hw ▸ canonical_wordOf pinMap ..) known⟩

/-- A handler run on a pending completion arms the published buffer, when that is encoded, or the same one again (R222,
R224). -/
theorem exec_irqFrame_of_inv (pending : ch.irqPending = true)
    (published : ∀ k, s.pool.pendingNext = some k → ∃ b, s.pool.bufs[k]? = some b ∧ b.encoded = true) :
    ∃ k b as, exec (.irqFrame c) s = .next (frameHandled c k ch b as s) := by
  have good := inv.channel ch (List.mem_of_getElem? hc)
  have stopped : ch.enable = false := by
    by_contra running
    exact absurd ((good.acknowledged (by simpa using running)).symm.trans pending) (by decide)
  obtain ⟨m, x, armed, hx, encodedx, -⟩ := inv.exists_armed steady
  obtain ⟨b, hb, encoded, idle⟩ : ∃ b, s.pool.bufs[nextArmed s m]? = some b ∧ b.encoded = true ∧
      s.producer.encoding ≠ some (nextArmed s m) := by
    rw [nextArmed]
    cases slot : s.pool.pendingNext with
    | none => exact ⟨x, hx, encodedx, fun encoding => (inv.encode.idle m encoding).1 armed⟩
    | some k =>
      obtain ⟨b, hb, encoded⟩ := published k slot
      exact ⟨b, hb, encoded, fun encoding => (inv.encode.idle k encoding).2 slot⟩
  obtain ⟨hk, ha⟩ := inv.found hb
  obtain ⟨bs, run, -⟩ := exec_irqFrame inv.context (inv.armed.attached steady) inv.unmasked hc pending good.kept
    armed rfl hk ha hb stopped encoded idle (inv.path_valid steady)
  exact ⟨_, _, _, run⟩

end

section
variable {s : State} (inv : Inv s)
include inv

/-- The encode's next step, where its pixel holds a value (R135). -/
theorem encodeStep_of_inv {k : Nat} {p : Pixel} (steady : s.bringup = .armed)
    (encoding : s.producer.encoding = some k) (pixel : readPixel s s.producer.encIdx = some p) :
    ∃ b, encodeStep s = .next (pixelEncoded k b p s) := by
  obtain ⟨b, P, hb, -, -⟩ := inv.encode.buffer k encoding
  obtain ⟨unarmed, unpublished⟩ := inv.encode.idle k encoding
  obtain ⟨hk, ha⟩ := inv.found hb
  exact ⟨b, encodeStep_of_pixel encoding hk ha hb (inv.bufferInUse_eq_false steady hb unarmed unpublished) pixel⟩

/-- The publish that is owed, once its encode is done (R197, R232). -/
theorem exec_publishNext_of_inv {k : Nat} (done : s.producer.encoding = none) (owed : s.producer.thenPublish = some k)
    (f : Producer → Producer) :
    exec (.publishNext k) (s.modProducer f) =
      .next ((((s.modProducer f).setPending (some k)).log [.slotPut k]).setRet .void) := by
  obtain current | ⟨-, unarmed, -, b, hb, encoded⟩ := inv.encode.publish k owed
  · exact nomatch done.symm.trans current
  · obtain ⟨hk, ha⟩ := inv.found hb
    rw [exec_publishNext (s := s.modProducer f) inv.context hk ha hb, encoded, if_neg (by decide),
      State.modProducer_pool, if_neg unarmed]

/-- The rest of an operation begun by its read half (R53 (d)): a write-back, which leaves the bring-up state and the error
record, or the rest of a `TEARDOWN` (R158). -/
theorem finishTorn_of_inv {c : Nat} {ch : Channel} (single : s.cfg.nch = 1) (hc : s.chans[c]? = some ch)
    (w : HalfWrite) :
    ∃ t, finishTorn w s = .next t ∧ ((t.bringup = s.bringup ∧ t.err = s.err) ∨
      (t.bringup = .unconfigured ∧ t.err = none ∧ ∃ r, w = ⟨.teardown, r⟩)) := by
  obtain ⟨op, r⟩ := w
  by_cases hop : op = .teardown
  · obtain ⟨rfl, -⟩ := inv.chans_eq single hc
    subst hop
    obtain ⟨as, whole, -⟩ := exec_teardown inv.context
    obtain ⟨w, bs, -, -, torn⟩ := finishTorn_of_teardown (r := r) hc whole
    exact ⟨_, torn, .inr ⟨rfl, rfl, r, rfl⟩⟩
  · have same := writeHalf_holdings ⟨op, r⟩ s
    exact ⟨_, finishTorn_of hop s, .inl ⟨congrArg Holdings.bringup same, congrArg Holdings.err same⟩⟩

end

/-- Settles O49: `exec_dmaXfer_of_inv`, `exec_irqFrame_of_inv`, and for the producer `encodeStep_of_inv`,
`exec_publishNext_of_inv` and `finishTorn_of_inv`. (The producer's steps are the model's: notes/assumptions/8.md, 33.md,
38.md; that a `TEARDOWN` clears the error record is 23.md.) -/
theorem steadyStateNeverFails : Obligations.SteadyStateNeverFails := by
  intro s c ch inv admitted steady hc
  refine ⟨fun enabled => ?_, fun pending published => ?_, fun busy pixels => ?_⟩
  · obtain ⟨w, run⟩ := exec_dmaXfer_of_inv inv steady hc admitted enabled
    exact ⟨_, run, steady, rfl⟩
  · obtain ⟨k, b, as, run⟩ := exec_irqFrame_of_inv inv steady hc pending published
    exact ⟨_, run, steady, rfl⟩
  · cases encoding : s.producer.encoding with
    | some k =>
      obtain ⟨p, pixel⟩ := pixels s.producer.encIdx (inv.encode.position k encoding)
      obtain ⟨b, run⟩ := encodeStep_of_inv inv steady encoding pixel
      exact ⟨_, (producerWork_encoding (by rw [encoding]; rfl)).trans run, .inl ⟨steady, rfl⟩⟩
    | none =>
      cases owed : s.producer.thenPublish with
      | some k =>
        exact ⟨_, (producerWork_publish encoding owed).trans (exec_publishNext_of_inv inv encoding owed _),
          .inl ⟨steady, rfl⟩⟩
      | none =>
        cases half : s.producer.halfWrite with
        | some w =>
          obtain ⟨t, run, ends⟩ := finishTorn_of_inv inv (nch_of_configProblem admitted) hc w
          refine ⟨t, (producerWork_half encoding owed half).trans run, ?_⟩
          obtain ⟨same, err⟩ | ⟨ended, err, r, rfl⟩ := ends
          · exact .inl ⟨same.trans steady, err⟩
          · exact .inr ⟨ended, err, r, rfl⟩
        | none =>
          have free := (producerBusy_eq_false_iff s).2 ⟨encoding, owed, half⟩
          exact absurd (free.symm.trans busy) (by decide)

end Sys2Proof.Machine
end

section
/-! PROOF of the statement of 60_exceptions about notifications: the choice of a buffer, and the producer's two steps that
serve a notification. -/

namespace Sys2Proof.Machine

/-! ### The choice of a buffer (R199) -/

/-- Counted round the pool from any `n`, every buffer is met. -/
theorem mem_countedFrom (n : Nat) {k : Nat} (hk : k < nPool) : k ∈ (List.range nPool).map fun i => (n + i) % nPool := by
  have eight : nPool = 8 := rfl
  rw [eight] at hk ⊢
  exact List.mem_map.2 ⟨(k + 8 - n % 8) % 8, List.mem_range.2 (by omega), by omega⟩

/-- The choice may be filled: some buffer may be, and it is met. -/
theorem chooseBuffer_mem (s : State) (n : Nat) : chooseBuffer s n ∈ fillCandidates s := by
  obtain ⟨k, hk⟩ : ∃ k, k ∈ fillCandidates s :=
    List.exists_mem_of_length_pos (Nat.lt_of_lt_of_le (by decide) (six_le_length_fillCandidates s))
  have met := mem_countedFrom n (mem_fillCandidates_iff.1 hk).1
  have found := (List.find?_isSome (p := fun k => decide (k ∈ fillCandidates s))).2 ⟨k, met, decide_eq_true hk⟩
  obtain ⟨l, hl⟩ := Option.isSome_iff_exists.1 found
  have fillable := List.find?_some hl
  rw [chooseBuffer, hl]
  exact of_decide_eq_true fillable

/-- A buffer that may be filled is the first one met from itself. -/
theorem chooseBuffer_of_mem {s : State} {n : Nat} (h : n ∈ fillCandidates s) : chooseBuffer s n = n := by
  have first : (n + 0) % nPool = n := Nat.mod_eq_of_lt (mem_fillCandidates_iff.1 h).1
  have range : List.range nPool = 0 :: List.range' 1 (nPool - 1) := rfl
  rw [chooseBuffer, range, List.map_cons, first,
    List.find?_cons_of_pos (p := fun k => decide (k ∈ fillCandidates s)) (decide_eq_true h)]
  rfl

/-! ### The producer's steps by itself (R232) -/

section
variable {s : State} (admitted : configProblem s.cfg = none) (empty : s.inbox = []) (undelivered : deliverable s = none)
include admitted empty undelivered

/-- With an empty inbox and nothing to deliver, a producer that has work takes its step. -/
theorem step_of_work (work : producerHasWork s = true) : step s = producerWork s :=
  (step_idle admitted empty).trans (idleStep_producer undelivered work)

/-- A free producer takes up the first notification, when there is a pool. -/
theorem step_of_note {n : Nat} {rest : List Nat} (free : producerBusy s = false) (notes : s.producer.notes = n :: rest)
    (ha : s.pool.allocated = true) : step s = takeUp n rest s := by
  obtain ⟨encoding, owed, half⟩ := (producerBusy_eq_false_iff s).1 free
  have work : producerHasWork s = true := by simp [producerHasWork, noteWaits, notes, ha]
  exact (step_of_work admitted empty undelivered work).trans (producerWork_note encoding owed half ha notes)

/-- The publish owed, once the encode is done. -/
theorem step_of_owed {k : Nat} (done : s.producer.encoding = none) (owed : s.producer.thenPublish = some k) :
    step s = exec (.publishNext k) (s.modProducer fun p => { p with thenPublish := none }) := by
  have work : producerHasWork s = true := by simp [producerHasWork, producerBusy, owed]
  exact (step_of_work admitted empty undelivered work).trans (producerWork_publish done owed)

end

/-- The encode of a notification that is begun owes the publish of its buffer. -/
theorem takeUp_of_encoding {s t : State} {n k : Nat} {rest : List Nat} (choice : k = chooseBuffer s n)
    (run : exec (.encFrame k) (s.modProducer fun p => { p with notes := rest }) = .next t)
    (encoding : t.producer.encoding = some k) :
    takeUp n rest s = .next (t.modProducer fun p => { p with thenPublish := some k }) := by
  rw [takeUp, ← choice, run, andThen_next, State.modProducer, State.modProducer, encoding]

/-- Settles O56: `chooseBuffer_mem` and `chooseBuffer_of_mem` are the choice, `step_of_note` and `step_of_owed` the two
steps. (The queue and the free choice as data are notes/assumptions/33.md; which step comes next is 7.md.) -/
theorem notificationIsServed : Obligations.NotificationIsServed := by
  refine ⟨fun s offset n rest admitted first => step_event admitted first,
    fun s n => ⟨chooseBuffer_mem s n, chooseBuffer_of_mem⟩, ?_, ?_⟩
  · intro s t n k rest admitted empty undelivered idle owes half notes ha choice run encoding
    have free := (producerBusy_eq_false_iff s).2 ⟨idle, owes, half⟩
    exact (step_of_note admitted empty undelivered free notes ha).trans (takeUp_of_encoding choice run encoding)
  · intro s k admitted empty undelivered done owed
    exact step_of_owed admitted empty undelivered done owed

end Sys2Proof.Machine
end


section
/-! PROOFS of the statements of 70_reset_and_hazards about words that must not reach the panel: a rise from a strobe level
that holds no value, a word in `Signal` mode, and a non-canonical word at `PINDATA`. -/

namespace Sys2Proof.Machine

/-! ### The two faults of one write of `PINDATA`, and the write that the panel does not see -/

/-- The canonical form is the first thing a write looks at (R273). -/
theorem pinWrite_of_nonCanonical {w : Word} {s : State} (bad : canonical s.cfg w = false) :
    pinWrite w s = .fault .nonCanonicalWord := by
  rw [pinWrite, bad]
  rfl

/-- A write that raises a strobe whose level holds no value (R272). -/
theorem pinWrite_of_latchUndetermined {w : Word} {s : State} (hw : canonical s.cfg w = true)
    (unknown : latchUndetermined w s = true) : pinWrite w s = .fault .strobeUnspecified := by
  rw [pinWrite, hw, unknown]
  rfl

theorem latchUndetermined_of_rise {w : Word} {s : State} (data : s.gpio.pinMode = .data)
    (unknown : s.panel.strobeKnown = false) (high : strobeBit s.cfg w = true) : latchUndetermined w s = true := by
  rw [latchUndetermined, data, unknown, high]
  rfl

/-- In `Signal` mode no latch depends on the strobe (R31). -/
theorem latchUndetermined_of_signal {s : State} (signal : s.gpio.pinMode = .signal) (w : Word) :
    latchUndetermined w s = false := by
  rw [latchUndetermined, signal]
  rfl

/-- In `Signal` mode the panel does not see the write (R31). -/
theorem pinWritten_panel_of_signal {s : State} (signal : s.gpio.pinMode = .signal) (w : Word) :
    (pinWritten w s).panel = s.panel := by
  simp only [pinWritten, signal]

/-- So it changes the register and the trace alone. -/
theorem pinWritten_frame_of_signal {s : State} (signal : s.gpio.pinMode = .signal) (w : Word) :
    { pinWritten w s with
      gpio := { (pinWritten w s).gpio with pinData := s.gpio.pinData }, trace := s.trace } = s :=
  calc
    _ = { s with panel := (pinWritten w s).panel } := rfl
    _ = s := by rw [pinWritten_panel_of_signal signal]

/-- Settles O12: the instruction is one write of its canonical word; `latchUndetermined` is what the pin mode and the
strobe make it. -/
theorem unknownStrobeFaultsAndSignalModeHidesThePins : Obligations.UnknownStrobeFaultsAndSignalModeHidesThePins := by
  intro s i w hw hc
  have run := exec_of_encodeWord hw
  have hcan := canonical_of_encodeWord ((pinMapOk_iff s.cfg).1 hc) hw
  refine ⟨fun data unknown high => ?_, fun signal => ⟨pinWritten w s, ?_, pinWritten_pinData w s, ?_⟩⟩
  · exact run.trans (pinWrite_of_latchUndetermined hcan (latchUndetermined_of_rise data unknown high))
  · exact run.trans (pinWrite_eq_next.2 ⟨hcan, latchUndetermined_of_signal signal w, rfl⟩)
  · exact pinWritten_frame_of_signal signal w

/-! ### A non-canonical word on each path to `PINDATA` (R273) -/

/-- A non-canonical word is no instruction (R92), so fetching it is the fault. -/
theorem runCode_of_nonCanonical {w : Word} {s : State} (bad : canonical s.cfg w = false) (rest : List Event) :
    runCode (.word w) rest s = .fault .nonCanonicalWord := by
  have undecodable : decode s.cfg (.word w) = .error (.nonCanonical w) := by
    rw [decode, decodeWord, bad]
    rfl
  rw [runCode, undecodable]
  rfl

/-- The first word of a pair is written first, so its fault is the operation's. -/
theorem exec_emitPair_of_nonCanonical {lo hi : Word} {s : State} (pair : isPair s.cfg lo hi = true)
    (data : s.gpio.pinMode = .data) (bad : canonical s.cfg lo = false) :
    exec (.emitPair lo hi) s = .fault .nonCanonicalWord := by
  rw [exec_emitPair, emitWords, pair, data, pinWrite_of_nonCanonical bad]
  rfl

/-- The engine checks the word it has read as any other writer's. -/
theorem exec_dmaXfer_of_nonCanonical {s : State} {c : Nat} {ch : Channel} {w : Word} (hc : s.chans[c]? = some ch)
    (enabled : ch.enable = true) (more : ch.dmaPos < ch.words) (mode : s.gpio.pinMode = .data)
    (valid : s.tcon.valid = true)
    (word : read32 s.cfg.endian s.txMem (ch.src.toNat + wordBytes * ch.dmaPos) = some w)
    (bad : canonical s.cfg w = false) : exec (.dmaXfer c) s = .fault .nonCanonicalWord := by
  refine (withChan_of hc _).trans ?_
  rw [enabled, decide_eq_true more, mode, valid, word]
  simp [pinWrite_of_nonCanonical bad]

/-- Settles O13: `encodedWordsAreCanonical` for the encoder, and one lemma for each path to `PINDATA`. -/
theorem nonCanonicalWordFaults : Obligations.NonCanonicalWordFaults := by
  refine ⟨fun c dc v hc => ?_, fun s w rest admitted bad first => ?_,
    fun s lo hi => exec_emitPair_of_nonCanonical, fun s c ch w hc enabled more mode valid word bad => ?_⟩
  · obtain ⟨canon, -⟩ := encodedWordsAreCanonical c v hc
    exact canon dc
  · exact (step_code (code := .word w) admitted first).trans (runCode_of_nonCanonical bad rest)
  · exact exec_dmaXfer_of_nonCanonical hc enabled more mode valid word bad

end Sys2Proof.Machine
end
